-- ==== Sys2Proof/Word.lean ====
section
/-! DEFINITION. The word types of CORE and its fixed sizes (00_scope.md R8, R9): bytes, 13-bit bus
addresses, 16-bit scan-line counts, 24-bit cycle descriptors, 8-bit scheme identifiers and the
3-bit kind field. -/

namespace Sys2Proof

/-- One data byte: `DW` = 8 bits (00_scope.md R8). -/
abbrev Byte := BitVec 8

/-- A bus address: `AW` = 13 bits (00_scope.md R8, 20_memory.md R40). -/
abbrev Addr := BitVec 13

/-- A scan-line count: a pulse interval, a candidate or the geometry, `IW` = 16 bits
(00_scope.md R8, 10_state.md R26, 30_encoding.md R65). -/
abbrev Lines := BitVec 16

/-- A bus-cycle descriptor (30_encoding.md R61). -/
abbrev Descriptor := BitVec 24

/-- The kind field `K = (S, F, W)` of a descriptor (30_encoding.md R61). -/
abbrev KindField := BitVec 3

/-- The declared mapping-scheme identifier (30_encoding.md R66). -/
abbrev SchemeId := BitVec 8

/-- The size of the bus address space, 8192 locations (20_memory.md R40). -/
abbrev busSize : Nat := 0x2000

end Sys2Proof
end

