-- ==== Sys2Proof/Config.lean ====
section
/-! DEFINITION. What the outside world supplies: the configuration of a session (00_scope.md R8,
10_state.md R33), the START record (30_encoding.md R68), the inputs (00_scope.md R5), and the free
values, which are the answers of the collaborators CORE reads (00_scope.md R6). -/

namespace Sys2Proof

/-- The owner field of a region descriptor (30_encoding.md R64). -/
inductive Owner where
  | video
  | ioram
  | ioreg
  | cart
deriving DecidableEq, Repr

/-- A region descriptor (20_memory.md R41, 30_encoding.md R64): its four fields, as numbers. Which
values are legal is checked by START (W1 to W6). -/
structure Region where
  owner : Owner
  base : Nat
  size : Nat
  mirrorMask : Nat
deriving DecidableEq, Repr

/-- One pair of HOTSPOTS: a control address and the bank it selects (00_scope.md R8). -/
structure Hotspot where
  addr : Nat
  bank : Nat
deriving DecidableEq, Repr

/-- One alternative of the predicate OB_UNDRIVEN: the addresses `x` with `x & mask = value`. -/
structure AddrPattern where
  mask : Addr
  value : Addr
deriving DecidableEq, Repr

/-- The configuration of a session (10_state.md R33, 00_scope.md R8): fixed at START, read by every
step and written by none. It is flat: a scheme kind reads the parameters 30_encoding.md R67 gives
it and no others. -/
structure Configuration where
  /-- REGIONS, in table order. -/
  regions : List Region
  /-- BANK_COUNT. -/
  bankCount : Nat
  /-- BANK_SIZE. -/
  bankSize : Nat
  /-- The image's bytes by image index, bank-major (20_memory.md R49). -/
  rom : List Host.Cell
  /-- SELECT_MASK, or `none` for its default (41_bank_switch.md R108). -/
  selectMask : Option Nat := none
  /-- HOTSPOTS. -/
  hotspots : List Hotspot
  /-- HOTSPOT_ON_WRITE, by default true (41_bank_switch.md R111). -/
  hotspotOnWrite : Bool := true
  snoopMask : Nat
  snoopMatch : Nat
  snoopShift : Nat
  snoopSelect : Nat
  ramBase : Nat
  ramWindow : Nat
  ramPages : Nat
  /-- PAGE_REG_ADDR. -/
  pageRegAddr : Nat
  /-- OB_UNDRIVEN: an address is undriven when one of these patterns holds of it. -/
  obUndriven : List AddrPattern
  obThreshold : Nat
  obIndirectOpcode : Byte
  /-- OB_CHECK_PREV_ADDR, by default false (42_open_bus.md R133). -/
  obCheckPrevAddr : Bool := false
  /-- DT_CANDIDATES. -/
  dtCandidates : List Lines
  defaultGeometry : Lines
deriving DecidableEq, Repr

/-- The bus trace (10_state.md R29): data and address of the latest FETCH cycle and of the one
before it. -/
structure Trace where
  lastByte : Byte
  lastAddr : Addr
  prevByte : Byte
  prevAddr : Addr
deriving DecidableEq, Repr

/-- The START record (30_encoding.md R68). -/
structure StartRecord where
  schemeId : SchemeId
  cfg : Configuration
  /-- The size of the RAM overlay the image store declares; `none` where it declares none. -/
  overlayBytes : Option Nat
  /-- INIT_BANK. -/
  initBank : Nat
  /-- INIT_PAGE. -/
  initPage : Nat
  /-- INIT_IORAM, as the bytes by index. -/
  initIoRam : List Host.Cell
  /-- INIT_CARTRAM, as the bytes by index. -/
  initCartRam : List Host.Cell
  /-- INIT_TRACE. -/
  initTrace : Trace
deriving DecidableEq, Repr

/-- One input of CORE (00_scope.md R5): a bus cycle, a synchronisation pulse, or session start. A
session start arrives with its whole record, or as the bare scheme-identifier byte of the table's
SCHEME rows, the rest of the record being the one last supplied (notes/assumptions/4.md). -/
inductive Input where
  | cycle (c : Descriptor)
  | vsync (interval : Lines)
  | start (record : StartRecord)
  | schemeId (id : SchemeId)
deriving DecidableEq, Repr

/-- The input channels an input word can arrive on (opcode_table.json: "separate input channel from
bus cycles"). A START record has no bit packing (30_encoding.md R68), so it is no channel's word. -/
inductive Channel where
  | bus
  | sync
  | scheme
deriving DecidableEq, Repr

/-- FREE VALUE. The video chip's answer to `VideoRead(o, ob, sed)` at a turn of the collaborators
(00_scope.md R6, 30_encoding.md R72). It has no body: a claim holds whatever the chip answers. -/
opaque Config.videoAnswer (turn offset : Nat) (ob : Byte) (sed : Bool) : Byte

/-- FREE VALUE. The I/O timer chip's answer to `IoRead(o, sed)` at a turn of the collaborators
(00_scope.md R6, 30_encoding.md R72). -/
opaque Config.ioAnswer (turn offset : Nat) (sed : Bool) : Byte

end Sys2Proof
end

