-- ==== Sys2Proof/Machine/Reference.lean ====
section
/-! DEFINITION. The reference values of the OPEN parameters (00_scope.md R8): the address map of
20_memory.md R45, the open-bus and display values, the vector values of the SNOOP and PAGED_RAM
parameters. No rule fixes them; they are what State.reset starts from (notes/assumptions/6.md). -/

namespace Sys2Proof.Machine

/-- The reference region table REF (20_memory.md R45). -/
def referenceRegions : List Region :=
  [ ⟨.video, 0x0000, 0x0080, 0x0F00⟩,
    ⟨.ioram, 0x0080, 0x0080, 0x0D00⟩,
    ⟨.ioreg, 0x0280, 0x0020, 0x0D00⟩,
    ⟨.cart, 0x1000, 0x1000, 0x0000⟩ ]

/-- The reference OB_UNDRIVEN, `(x & 0x1080) != 0`: bit 12 or bit 7 is set (42_open_bus.md R131). -/
def referenceUndriven : List AddrPattern :=
  [⟨0x1000, 0x1000⟩, ⟨0x0080, 0x0080⟩]

/-- The reference HOTSPOTS (41_bank_switch.md R110). -/
def referenceHotspots : List Hotspot := [⟨0x1FF8, 0⟩, ⟨0x1FF9, 1⟩]

/-- The reference configuration: 00_scope.md R8, with the two banks of the example of
70_reset_and_hazards.md R170. -/
def referenceConfiguration : Configuration where
  regions := referenceRegions
  bankCount := 2
  bankSize := 0x1000
  rom := []
  hotspots := referenceHotspots
  snoopMask := 0x0FFC
  snoopMatch := 0x003C
  snoopShift := 0
  snoopSelect := 0x3
  ramBase := 0x000
  ramWindow := 0x100
  ramPages := 4
  pageRegAddr := 0x1FF0
  obUndriven := referenceUndriven
  obThreshold := 0x80
  obIndirectOpcode := 0xB1
  dtCandidates := [262, 312, 328, 342]
  defaultGeometry := 262

/-- The all-zero bus trace, the model's own INIT_TRACE (notes/assumptions/7.md). -/
def zeroTrace : Trace := ⟨0, 0, 0, 0⟩

/-- The reference START record: the example of 70_reset_and_hazards.md R170 (scheme id 3, two banks,
`INIT_BANK = 1`), INIT_PAGE at its reference 0, and the model's own free contents
(notes/assumptions/6.md, notes/assumptions/7.md). -/
def referenceRecord : StartRecord where
  schemeId := 3
  cfg := referenceConfiguration
  overlayBytes := some 0x400
  initBank := 1
  initPage := 0
  initIoRam := []
  initCartRam := []
  initTrace := zeroTrace

end Sys2Proof.Machine
end

