-- ==== Sys2Proof/Syntax.lean ====
section
/-! DEFINITION. The instructions of CORE: one constructor per row of spec/opcode_table.json. CORE has
no instruction set (00_scope.md R2), its instructions are its inputs (30_encoding.md R60), the
reserved cycle kinds (R62) and the scheme identifiers of a session start (R66). -/

namespace Sys2Proof

inductive Instr where
  /-- READ: a data read cycle (40_bus_decoder.md R81). The data field is don't-care (R62). -/
  | read (a : Addr)
  /-- WRITE: a write cycle (R82). -/
  | write (a : Addr) (d : Byte)
  /-- FETCH: a read cycle of an instruction byte (R83). -/
  | fetch (a : Addr)
  /-- PEEK: an introspection read with side effects disabled (R85). -/
  | peek (a : Addr)
  /-- The reserved kind 011, a fetch that writes (30_encoding.md R63). -/
  | reservedK011 (a : Addr) (d : Byte)
  /-- The reserved kind 101, a write with side effects disabled. -/
  | reservedK101 (a : Addr) (d : Byte)
  /-- The reserved kind 110, a fetch with side effects disabled. -/
  | reservedK110 (a : Addr) (d : Byte)
  /-- The reserved kind 111. -/
  | reservedK111 (a : Addr) (d : Byte)
  /-- VSYNC: a synchronisation pulse with its measured interval (43_display_timing.md R143). -/
  | vsync (interval : Lines)
  /-- START: session start with its record (70_reset_and_hazards.md R170). -/
  | start (record : StartRecord)
  /-- Session start declaring scheme id 0 (41_bank_switch.md R105). -/
  | schemeFixed
  /-- Session start declaring scheme id 1 (R106). -/
  | schemeWselAddr
  /-- Session start declaring scheme id 2 (R107). -/
  | schemeWselData
  /-- Session start declaring scheme id 3 (R109). -/
  | schemeHotspot
  /-- Session start declaring scheme id 4 (R112). -/
  | schemeSnoop
  /-- Session start declaring scheme id 5 (R117). -/
  | schemePagedRam
  /-- Session start declaring an id of no scheme, 6 to 255 (60_exceptions.md R152). -/
  | schemeUnknown (id : SchemeId)
deriving DecidableEq, Repr

end Sys2Proof
end

