-- ==== Sys2Proof/WellFormed.lean ====
section
/-! DEFINITION. Which terms of `Instr` stand for an input of CORE. Every field but one has exactly the
width its encoding gives it, so the only check left is the id of the unknown-scheme row. -/

namespace Sys2Proof

/-- The row SCHEME_UNKNOWN covers the ids 6 to 255 and no others (30_encoding.md R66). -/
def Instr.wf : Instr → Bool
  | .read _ => true
  | .write _ _ => true
  | .fetch _ => true
  | .peek _ => true
  | .reservedK011 _ _ => true
  | .reservedK101 _ _ => true
  | .reservedK110 _ _ => true
  | .reservedK111 _ _ => true
  | .vsync _ => true
  | .start _ => true
  | .schemeFixed => true
  | .schemeWselAddr => true
  | .schemeWselData => true
  | .schemeHotspot => true
  | .schemeSnoop => true
  | .schemePagedRam => true
  | .schemeUnknown id => decide (6 ≤ id.toNat)

end Sys2Proof
end

