-- ==== Sys2Proof/Decode.lean ====
section
/-! DEFINITION. Decoding and encoding: the bus-cycle descriptor (30_encoding.md R61, R62), the VSYNC
event (R65), the scheme identifiers (R66), the region descriptor's packing (R64), and the numbering
of the opcode table's rows. Decoding is total: every word of a channel is some instruction, the
reserved kinds and the unknown ids among them (R71), and a word of a wrong length is rejected by
name. -/

namespace Sys2Proof

/-- The bus address `A = c[12:0]` of a descriptor (30_encoding.md R61). -/
def descriptorAddr (c : Descriptor) : Addr := c.extractLsb' 0 13

/-- The kind field `K = c[15:13]` (R61). -/
def descriptorKind (c : Descriptor) : KindField := c.extractLsb' 13 3

/-- The data byte `D = c[23:16]` (R61). -/
def descriptorData (c : Descriptor) : Byte := c.extractLsb' 16 8

/-- The descriptor with kind `k`, address `a` and data `d` (R61). -/
def descriptorOf (k : KindField) (a : Addr) (d : Byte) : Descriptor := d ++ (k ++ a)

/-- The kind field decides the operation (30_encoding.md R62). For READ, FETCH and PEEK the data
byte is don't-care and is dropped. -/
def decodeCycle (c : Descriptor) : Instr :=
  let k := descriptorKind c
  let a := descriptorAddr c
  let d := descriptorData c
  if k = 0b000 then .read a
  else if k = 0b001 then .write a d
  else if k = 0b010 then .fetch a
  else if k = 0b100 then .peek a
  else if k = 0b011 then .reservedK011 a d
  else if k = 0b101 then .reservedK101 a d
  else if k = 0b110 then .reservedK110 a d
  else .reservedK111 a d

/-- The scheme row an identifier selects (30_encoding.md R66). -/
def decodeScheme (id : SchemeId) : Instr :=
  if id = 0 then .schemeFixed
  else if id = 1 then .schemeWselAddr
  else if id = 2 then .schemeWselData
  else if id = 3 then .schemeHotspot
  else if id = 4 then .schemeSnoop
  else if id = 5 then .schemePagedRam
  else .schemeUnknown id

/-- The instruction an input is. -/
def decode : Input → Instr
  | .cycle c => decodeCycle c
  | .vsync i => .vsync i
  | .start r => .start r
  | .schemeId id => decodeScheme id

/-- Why a sequence of bytes is no input word. -/
inductive DecodeError where
  /-- The channel takes words of another length (30_encoding.md R71: "one descriptor of fixed
  width"). Raised by `inputOfBytes`; safe, since no input arises. -/
  | wrongLength (channel : Channel)
deriving DecidableEq, Repr

/-- The input word that bytes on a channel form, the least significant byte first
(notes/assumptions/9.md): three bytes for a descriptor, two for an interval, one for an id. -/
def inputOfBytes : Channel → List Byte → Except DecodeError Input
  | .bus, [b0, b1, b2] => .ok (.cycle (b2 ++ (b1 ++ b0)))
  | .sync, [b0, b1] => .ok (.vsync (b1 ++ b0))
  | .scheme, [b0] => .ok (.schemeId b0)
  | ch, _ => .error (.wrongLength ch)

/-- Decoding any bytes on a channel. -/
def decodeBytes (ch : Channel) (bytes : List Byte) : Except DecodeError Instr :=
  match inputOfBytes ch bytes with
  | .ok i => .ok (decode i)
  | .error e => .error e

/-- The input word of an instruction, written from the same tables (30_encoding.md R61, R62, R65,
R66, R73). The don't-care data byte of a read is 0x00, as R73 writes it. -/
def encode : Instr → Input
  | .read a => .cycle (descriptorOf 0b000 a 0)
  | .write a d => .cycle (descriptorOf 0b001 a d)
  | .fetch a => .cycle (descriptorOf 0b010 a 0)
  | .peek a => .cycle (descriptorOf 0b100 a 0)
  | .reservedK011 a d => .cycle (descriptorOf 0b011 a d)
  | .reservedK101 a d => .cycle (descriptorOf 0b101 a d)
  | .reservedK110 a d => .cycle (descriptorOf 0b110 a d)
  | .reservedK111 a d => .cycle (descriptorOf 0b111 a d)
  | .vsync i => .vsync i
  | .start r => .start r
  | .schemeFixed => .schemeId 0
  | .schemeWselAddr => .schemeId 1
  | .schemeWselData => .schemeId 2
  | .schemeHotspot => .schemeId 3
  | .schemeSnoop => .schemeId 4
  | .schemePagedRam => .schemeId 5
  | .schemeUnknown id => .schemeId id

/-- The owner code of a region descriptor (30_encoding.md R64). -/
def ownerCode : Owner → BitVec 2
  | .video => 0
  | .ioram => 1
  | .ioreg => 2
  | .cart => 3

/-- The owner a code names (R64). -/
def ownerOfCode (k : BitVec 2) : Owner :=
  if k = 0 then .video else if k = 1 then .ioram else if k = 2 then .ioreg else .cart

/-- The 42-bit canonical packing of a region descriptor (R64): owner `[1:0]`, base `[14:2]`, size
`[28:15]`, mirrorMask `[41:29]`. -/
def packRegion (r : Region) : BitVec 42 :=
  BitVec.ofNat 13 r.mirrorMask ++ (BitVec.ofNat 14 r.size ++ (BitVec.ofNat 13 r.base ++ ownerCode r.owner))

/-- The region descriptor a packed word holds (R64). -/
def unpackRegion (w : BitVec 42) : Region where
  owner := ownerOfCode (w.extractLsb' 0 2)
  base := (w.extractLsb' 2 13).toNat
  size := (w.extractLsb' 15 14).toNat
  mirrorMask := (w.extractLsb' 29 13).toNat

/-- Whether the kind bits of a 16-bit row word are those of a row whose data byte the table leaves
out (READ, FETCH, PEEK). -/
def readKindBits (w : Nat) : Bool :=
  w / 0x2000 == 0 || w / 0x2000 == 2 || w / 0x2000 == 4

/-- The channel a row of opcode_table.json of this width belongs to (notes/assumptions/9.md): 24 bits
are a whole descriptor, 8 bits a scheme id, and 16 bits either a descriptor whose data byte the
table gives no bits or a VSYNC event. -/
def tableChannel (nbits w : Nat) : Option Channel :=
  if nbits = 24 then some .bus
  else if nbits = 16 then some (if readKindBits w then .bus else .sync)
  else if nbits = 8 then some .scheme
  else none

/-- The bytes a row's word stands for on its channel, the least significant first; those above the
row's width are 0. -/
def tableBytes : Channel → Nat → List Byte
  | .bus, w => [BitVec.ofNat 8 w, BitVec.ofNat 8 (w / 0x100), BitVec.ofNat 8 (w / 0x10000)]
  | .sync, w => [BitVec.ofNat 8 w, BitVec.ofNat 8 (w / 0x100)]
  | .scheme, w => [BitVec.ofNat 8 w]

/-- The input an opcode-table word stands for. The row START has no bits and stands for a session
start with the reference record (notes/assumptions/9.md). -/
def tableInput (nbits w : Nat) : Option Input :=
  if nbits = 0 then some (.start Machine.referenceRecord)
  else
    match tableChannel nbits w with
    | none => none
    | some ch =>
      if w < 2 ^ nbits then
        match inputOfBytes ch (tableBytes ch w) with
        | .ok i => some i
        | .error _ => none
      else none

/-- The instruction the decoder reads from an opcode-table word. -/
def decodeTableWord (nbits w : Nat) : Option Instr :=
  match tableInput nbits w with
  | some i => some (decode i)
  | none => none

end Sys2Proof
end

