-- ==== Sys2Proof/Machine/Memory.lean ====
section
/-! DEFINITION. Byte memories as lists of (index, byte) cells in one canonical form: indices strictly
rising and no cell equal to what an unlisted index reads as. CORE has three: SharedIoRam
(10_state.md R28), the cartridge RAM overlay (R30) and the ROM image (20_memory.md R49). -/

namespace Sys2Proof.Machine

/-- A byte memory. -/
abbrev Memory := List Host.Cell

/-- What an index that no cell lists reads as (notes/assumptions/7.md). -/
def Memory.unlisted : Byte := 0x00

/-- The byte at an index. -/
def Memory.read : Memory → Nat → Byte
  | [], _ => Memory.unlisted
  | (k, v) :: m, i => if k = i then v else Memory.read m i

/-- Storing the byte `v` at index `i`. -/
def Memory.write : Memory → Nat → Byte → Memory
  | [], i, v => if v = Memory.unlisted then [] else [(i, v)]
  | (k, u) :: m, i, v =>
    if i < k then
      if v = Memory.unlisted then (k, u) :: m else (i, v) :: (k, u) :: m
    else if i = k then
      if v = Memory.unlisted then m else (i, v) :: m
    else (k, u) :: Memory.write m i v

/-- The canonical form from a lowest index on. -/
def Memory.wfFrom : Nat → Memory → Bool
  | _, [] => true
  | lo, (k, v) :: m => decide (lo ≤ k) && (decide (v ≠ Memory.unlisted) && Memory.wfFrom (k + 1) m)

/-- The canonical form. -/
def Memory.wf (m : Memory) : Bool := Memory.wfFrom 0 m

/-- Every listed index is below `n`. -/
def Memory.within (n : Nat) (m : Memory) : Bool := m.all (fun c => decide (c.1 < n))

/-- The canonical memory of `n` bytes that a list of initial cells describes; where the list gives an
index twice the later cell holds, and cells at or above `n` are no part of the memory
(notes/assumptions/11.md). -/
def Memory.load (n : Nat) (cells : List Host.Cell) : Memory :=
  cells.foldl (fun m c => if c.1 < n then Memory.write m c.1 c.2 else m) []

end Sys2Proof.Machine
end

