-- ==== Sys2Proof/Machine/State.lean ====
section
/-! DEFINITION. The state of the machine as plain data: the elements of 10_state.md R20, the
configuration in force (R33), the refusal mark (30_encoding.md R63, 70_reset_and_hazards.md R171),
and the model's own fields that hold the inputs to come, the outputs of the latest operation
(30_encoding.md R70), the record the host last supplied, and the turn of the collaborators. -/

namespace Sys2Proof.Machine

/-- The closed set of scheme kinds (30_encoding.md R66). -/
inductive Kind where
  | fixed
  | wselAddr
  | wselData
  | hotspot
  | snoop
  | pagedRam
deriving DecidableEq, Repr

/-- The name of a START legality check, recorded by InvalidConfiguration (60_exceptions.md R150):
the table checks of 20_memory.md R41, the parameter checks of 41_bank_switch.md R101, and the
candidate check of 60_exceptions.md R153. -/
inductive CheckName where
  | w1
  | w2
  | w3
  | w4
  | w5
  | w6
  | bankCount
  | bankSize
  | selectMask
  | hotspotsEmpty
  | hotspotsAddress
  | hotspotsTwice
  | snoopMask
  | snoopMatch
  | snoopShift
  | snoopSelect
  | ramWindow
  | ramBase
  | ramPages
  | pageRegAddr
  | overlay
  | dtCandidates
deriving DecidableEq, Repr

/-- Why a session was refused, with the recorded value (60_exceptions.md R150, R152, R153). -/
inductive RefuseReason where
  /-- Code 1: the declared id names no scheme. -/
  | unknownMappingScheme (id : SchemeId)
  /-- Code 2: a legality check fails. -/
  | invalidConfiguration (check : CheckName)
deriving DecidableEq, Repr

/-- The session status (10_state.md R32). -/
inductive Status where
  | running
  | refused (reason : RefuseReason)
deriving DecidableEq, Repr

/-- The bank-switch controller's state, one variant per scheme kind, each with exactly the elements
present under that kind (10_state.md R20, 41_bank_switch.md R100): `bank` (R24) unless the kind is
FIXED, `page` (R25) and CartRam (R30) under PAGED_RAM. -/
inductive Controller where
  | fixed
  | wselAddr (bank : Nat)
  | wselData (bank : Nat)
  | hotspot (bank : Nat)
  | snoop (bank : Nat)
  | pagedRam (bank page : Nat) (cartRam : Memory)
deriving DecidableEq, Repr

/-- One call of a collaborator, with the answer of a read (00_scope.md R10, 30_encoding.md R70). -/
inductive Call where
  | videoRead (offset : Nat) (ob : Byte) (sed : Bool) (answer : Byte)
  | videoWrite (offset : Nat) (v : Byte)
  | ioRead (offset : Nat) (sed : Bool) (answer : Byte)
  | ioWrite (offset : Nat) (v : Byte)
deriving DecidableEq, Repr

/-- What an operation produced (30_encoding.md R70). A WRITE has no result byte. -/
inductive Output where
  /-- READ, FETCH, PEEK: the result byte, and the collaborator calls in the order made. -/
  | read (result : Byte) (calls : List Call)
  /-- WRITE: no byte; the collaborator write, if any. -/
  | write (calls : List Call)
  /-- VSYNC: the bit `commit`. -/
  | vsync (commit : Bool)
  /-- START: RUNNING, or REFUSED with a reason. -/
  | start (outcome : Status)
  /-- A refused descriptor, the condition ReservedCycleKind, code 3 (60_exceptions.md R150). -/
  | reservedCycleKind (c : Descriptor)
deriving DecidableEq, Repr

/-- The machine's state. -/
structure State where
  /-- R32. -/
  status : Status
  /-- The configuration in force (R33). -/
  cfg : Configuration
  /-- The scheme kind with `bank`, `page` and CartRam where present (R24, R25, R30). -/
  controller : Controller
  /-- SharedIoRam (R28), by index 0 to 127. -/
  ioRam : Memory
  /-- The bus trace (R29). -/
  trace : Trace
  /-- The committed display geometry (R26); also the geometry output, at all times. -/
  geometry : Lines
  /-- The refusal mark: the reserved descriptors refused this session, the latest first; empty is
  clear (30_encoding.md R63, 70_reset_and_hazards.md R171). -/
  refusalMark : List Descriptor
  /-- The START record the host last supplied (70_reset_and_hazards.md R173). -/
  record : StartRecord
  /-- The inputs to come, the next first (00_scope.md R5). -/
  inputs : List Input
  /-- The outputs of the latest operation (30_encoding.md R70). -/
  output : Output
  /-- The model's own counter: which turn the collaborators' free answers are taken at. -/
  turn : Nat
deriving DecidableEq, Repr

/-- Why a step cannot be taken. -/
inductive Fault where
  /-- Raised by every instruction when the session is REFUSED: "A REFUSED CORE has no step for any
  input" (10_state.md R32, 93_implementation_defined.md U23). Safe: the machine is stuck. -/
  | sessionRefused (reason : RefuseReason)
  /-- Raised by the step when no input waits: CORE "takes no step unprompted" (00_scope.md R5).
  Safe: the machine waits. -/
  | noInput
deriving DecidableEq, Repr

/-- Why an instruction has no meaning. -/
inductive Refusal where
  /-- An instruction the model does not yet give its meaning, by mnemonic; raised by an arm of the
  dispatch only. Safe. No arm raises it now. -/
  | notModelled (mnemonic : String)
deriving DecidableEq, Repr

/-- The machine right after reset. "Session start is CORE's only reset" (10_state.md): this is the
state after a successful START with the reference record (70_reset_and_hazards.md R170, R171;
notes/assumptions/6.md, notes/assumptions/7.md). -/
def State.reset : State where
  status := .running
  cfg := referenceConfiguration
  controller := .hotspot 1
  ioRam := []
  trace := zeroTrace
  geometry := 262
  refusalMark := []
  record := referenceRecord
  inputs := []
  output := .start .running
  turn := 0

end Sys2Proof.Machine
end

