-- ==== Sys2Proof/Machine/Operands.lean ====
section
/-! DEFINITION. Operand assembly: every number an operation uses, as 30_encoding.md R69 assembles it
from the inputs and the configuration. Nothing is sign-extended and nothing is scaled. -/

namespace Sys2Proof.Machine

/-- `IORAM_SIZE` (00_scope.md R8). -/
def ioRamSize : Nat := 128

/-- `DT_TOLERANCE` (00_scope.md R8, 43_display_timing.md R141: inclusive). -/
def dtTolerance : Nat := 3

/-- The effective address `a & ~mirrorMask & 0x1FFF` of a region (20_memory.md R42). -/
def effectiveAddr (r : Region) (a : Addr) : Nat := (a &&& ~~~(BitVec.ofNat 13 r.mirrorMask)).toNat

/-- Whether a region claims an address: its effective address lies in `[base, base + size)`
(20_memory.md R43). -/
def claims (r : Region) (a : Addr) : Bool :=
  decide (r.base ≤ effectiveAddr r a) && decide (effectiveAddr r a < r.base + r.size)

/-- The region offset, effective address less base (20_memory.md R43). -/
def regionOffset (r : Region) (a : Addr) : Nat := effectiveAddr r a - r.base

/-- The mirror mask of a region that repeats every `stride` addresses in an aligned window, both
powers of two: `(window - 1) & ~(stride - 1)` (20_memory.md R46). -/
def strideMask (stride window : Nat) : Nat := (window - 1) ^^^ ((window - 1) &&& (stride - 1))

/-- The CART region of a table, the one region with owner CART (20_memory.md R41 W4, R48). -/
def cartRegion (regions : List Region) : Option Region := regions.find? (fun r => r.owner == .cart)

/-- `CART_SIZE` (20_memory.md R48). -/
def cartSize (regions : List Region) : Nat :=
  match cartRegion regions with
  | some r => r.size
  | none => 0

/-- `InCart(a)` (41_bank_switch.md R102): the CART region's own mask, whatever the table order. -/
def inCart (cfg : Configuration) (a : Addr) : Bool :=
  match cartRegion cfg.regions with
  | some r => claims r a
  | none => false

/-- `Off(a)`, the window offset of an address (41_bank_switch.md R102, 20_memory.md R48). -/
def windowOffset (cfg : Configuration) (a : Addr) : Nat :=
  match cartRegion cfg.regions with
  | some r => regionOffset r a
  | none => 0

/-- `NextPow2(n)`, the least power of two at or above `n` (41_bank_switch.md R108). -/
def nextPow2 (n : Nat) : Nat := if n ≤ 1 then 1 else 2 ^ (Nat.log2 (n - 1) + 1)

/-- `SELECT_MASK`, by default `NextPow2(BANK_COUNT) - 1` (41_bank_switch.md R108). -/
def selectMask (cfg : Configuration) : Nat := cfg.selectMask.getD (nextPow2 cfg.bankCount - 1)

/-- The WSEL_ADDR raw index (41_bank_switch.md R106). -/
def wselAddrIndex (cfg : Configuration) (a : Addr) : Nat := windowOffset cfg a &&& selectMask cfg

/-- The WSEL_DATA raw index (41_bank_switch.md R107). -/
def wselDataIndex (cfg : Configuration) (d : Byte) : Nat := d.toNat &&& selectMask cfg

/-- The hotspot raw index: the bank of the pair whose address equals the raw bus address
(41_bank_switch.md R109). -/
def hotspotIndex (cfg : Configuration) (a : Addr) : Option Nat :=
  match cfg.hotspots.find? (fun h => h.addr == a.toNat) with
  | some h => some h.bank
  | none => none

/-- Whether an address matches the snoop pattern (41_bank_switch.md R112). -/
def snoopHit (cfg : Configuration) (a : Addr) : Bool := a.toNat &&& cfg.snoopMask == cfg.snoopMatch

/-- The SNOOP raw index (41_bank_switch.md R112). -/
def snoopIndex (cfg : Configuration) (a : Addr) : Nat := (a.toNat >>> cfg.snoopShift) &&& cfg.snoopSelect

/-- `Reduce(x) = x mod BANK_COUNT` (41_bank_switch.md R104). -/
def reduceBank (cfg : Configuration) (x : Nat) : Nat := x % cfg.bankCount

/-- A page index, reduced mod RAM_PAGES (41_bank_switch.md R116). -/
def reducePage (cfg : Configuration) (x : Nat) : Nat := x % cfg.ramPages

/-- The image index of a bank's byte (20_memory.md R49). -/
def romIndex (cfg : Configuration) (bank offset : Nat) : Nat := bank * cfg.bankSize + offset

/-- `RomRead(bank, offset)` (00_scope.md R10). -/
def romRead (cfg : Configuration) (bank offset : Nat) : Byte :=
  Memory.read cfg.rom (romIndex cfg bank offset)

/-- The ROM byte a bank shows at a window offset: offset `o mod BANK_SIZE` (41_bank_switch.md R103). -/
def bankByte (cfg : Configuration) (bank o : Nat) : Byte := romRead cfg bank (o % cfg.bankSize)

/-- Whether a window offset lies in the PAGED_RAM overlay (41_bank_switch.md R117). -/
def inOverlay (cfg : Configuration) (o : Nat) : Bool :=
  decide (cfg.ramBase ≤ o) && decide (o < cfg.ramBase + cfg.ramWindow)

/-- The overlay byte index `page * RAM_WINDOW + (o - RAM_BASE)` (41_bank_switch.md R117). -/
def overlayIndex (cfg : Configuration) (page o : Nat) : Nat := page * cfg.ramWindow + (o - cfg.ramBase)

/-- `OB_UNDRIVEN(a)` (42_open_bus.md R131). -/
def undriven (cfg : Configuration) (a : Addr) : Bool :=
  cfg.obUndriven.any (fun p => a &&& p.mask == p.value)

/-- The open-bus low byte `a[7:0]` (42_open_bus.md R131). -/
def lowByte (a : Addr) : Byte := a.extractLsb' 0 8

/-- The open-bus peek address `zext_13(lastByte) + 1`, with no 8-bit wrap (42_open_bus.md R134). -/
def peekAddr (b : Byte) : Addr := b.setWidth 13 + 1

/-- The distance `|I - c|` of an interval from a candidate, on integers (43_display_timing.md R141). -/
def distance (i c : Lines) : Nat := ((i.toNat : Int) - (c.toNat : Int)).natAbs

end Sys2Proof.Machine
end

