-- ==== Sys2Proof/Machine/Flags.lean ====
section
/-! DEFINITION. CORE has no status flags (10_state.md R23). What stands in their place: the control
bits of a bus cycle, which last for that cycle only, and the one-bit output `commit` of a VSYNC
event. -/

namespace Sys2Proof.Machine

/-- The four kinds of bus cycle that have a step (30_encoding.md R62). -/
inductive CycleKind where
  | read
  | write
  | fetch
  | peek
deriving DecidableEq, Repr

/-- The control bit W, isWrite (10_state.md R23; `w` of 40_bus_decoder.md R80). -/
def CycleKind.isWrite : CycleKind → Bool
  | .read => false
  | .write => true
  | .fetch => false
  | .peek => false

/-- The control bit F, instruction fetch (10_state.md R23). -/
def CycleKind.isFetch : CycleKind → Bool
  | .read => false
  | .write => false
  | .fetch => true
  | .peek => false

/-- The control bit S, side effects disabled (10_state.md R23; `sed` of 40_bus_decoder.md R80). -/
def CycleKind.sed : CycleKind → Bool
  | .read => false
  | .write => false
  | .fetch => false
  | .peek => true

/-- Whether candidate `c` is a better match of interval `i` than candidate `b`: nearer, or equally
near and smaller (43_display_timing.md R141). -/
def betterMatch (i c b : Lines) : Bool :=
  decide (distance i c < distance i b) || (decide (distance i c = distance i b) && decide (c ≤ b))

/-- The best match of an interval among the candidates within the tolerance (43_display_timing.md
R141); `none` where no candidate matches. -/
def bestMatch (i : Lines) : List Lines → Option Lines
  | [] => none
  | c :: cs =>
    if distance i c ≤ dtTolerance then
      match bestMatch i cs with
      | none => some c
      | some b => if betterMatch i c b then some c else some b
    else bestMatch i cs

/-- The geometry after a VSYNC event (43_display_timing.md R142). -/
def observedGeometry (cfg : Configuration) (geometry i : Lines) : Lines :=
  match bestMatch i cfg.dtCandidates with
  | none => geometry
  | some best => best

/-- The output `commit` of a VSYNC event: a best match exists and differs from the committed value
(43_display_timing.md R142). -/
def commitFlag (cfg : Configuration) (geometry i : Lines) : Bool :=
  match bestMatch i cfg.dtCandidates with
  | none => false
  | some best => decide (best ≠ geometry)

end Sys2Proof.Machine
end

