-- ==== Sys2Proof/Machine/Ops.lean ====
section
/-! DEFINITION. The named operations over the state: its field updates, the status gate every input
passes (10_state.md R32), the input port, the ownership lookup (20_memory.md R43), and the two
refusals, which are all CORE has in the place of taking an exception (60_exceptions.md R156). -/

namespace Sys2Proof.Machine

/-! ### Field updates -/

def State.setStatus (s : State) (x : Status) : State := { s with status := x }
def State.setController (s : State) (x : Controller) : State := { s with controller := x }
def State.setIoRam (s : State) (x : Memory) : State := { s with ioRam := x }
def State.setTrace (s : State) (x : Trace) : State := { s with trace := x }
def State.setGeometry (s : State) (x : Lines) : State := { s with geometry := x }
def State.setRecord (s : State) (x : StartRecord) : State := { s with record := x }
def State.setInputs (s : State) (x : List Input) : State := { s with inputs := x }
def State.setOutput (s : State) (x : Output) : State := { s with output := x }

/-- The collaborators' next turn: they may change their own state between inputs
(notes/assumptions/5.md). -/
def State.tick (s : State) : State := { s with turn := s.turn + 1 }

/-- Keeping the refusal mark: the descriptor is recorded (60_exceptions.md R150, R155). -/
def State.mark (s : State) (c : Descriptor) : State := { s with refusalMark := c :: s.refusalMark }

/-! ### The status gate and the input port -/

/-- "A REFUSED CORE has no step for any input" (10_state.md R32); a RUNNING one goes to `t`. -/
def whenRunning (s t : State) : Host.Outcome State Fault Refusal :=
  match s.status with
  | .running => .next t
  | .refused r => .fault (.sessionRefused r)

/-- Taking the next input from the port: the input and the state without it (00_scope.md R5). -/
def takeInput (s : State) : Option (Input × State) :=
  match s.inputs with
  | [] => none
  | i :: rest => some (i, s.setInputs rest)

/-- Putting an input first at the port. -/
def placeInput (i : Input) (s : State) : State := s.setInputs (i :: s.inputs)

/-- Putting the input of an opcode-table word first at the port; a word that is no input leaves the
port as it is. -/
def placeTableWord (s : State) (nbits w : Nat) : State :=
  match tableInput nbits w with
  | some i => placeInput i s
  | none => s

/-! ### Ownership -/

/-- `Match(REGIONS, a)` (20_memory.md R43): the owner of the first region in table order that claims
the address, with the offset; `none` where the address is unclaimed. -/
def matchRegion : List Region → Addr → Option (Owner × Nat)
  | [], _ => none
  | r :: rs, a => if claims r a then some (r.owner, regionOffset r a) else matchRegion rs a

/-! ### The two refusals -/

/-- The numeric code of a session refusal (60_exceptions.md R150). -/
def RefuseReason.code : RefuseReason → Nat
  | .unknownMappingScheme _ => 1
  | .invalidConfiguration _ => 2

/-- The numeric code of ReservedCycleKind (60_exceptions.md R150). -/
def reservedCycleCode : Nat := 3

/-- Refusing a session: `status <- REFUSED(reason) ; stop` (70_reset_and_hazards.md R170). Nothing
else of R20 is written (notes/assumptions/14.md). -/
def refuseSession (reason : RefuseReason) (rec : StartRecord) (s : State) : State :=
  ((s.setStatus (.refused reason)).setRecord rec).setOutput (.start (.refused reason))

/-- Refusing a cycle of a reserved kind, by name (30_encoding.md R63, 60_exceptions.md R155): no
element of R20 changes, no collaborator is called, and the refusal mark is kept
(notes/assumptions/1.md). -/
def refuseCycle (c : Descriptor) (s : State) : State :=
  (s.mark c).setOutput (.reservedCycleKind c)

end Sys2Proof.Machine
end

