-- ==== Sys2Proof/Machine/Controller.lean ====
section
/-! DEFINITION. The bank-switch controller (41_bank_switch.md): the trigger of phase 1 (R102) and the
cartridge's data response of phase 2 (R103). Both match on the kind with no wildcard arm (R100). -/

namespace Sys2Proof.Machine

/-- The scheme kind, fixed for the session. -/
def Controller.kind : Controller → Kind
  | .fixed => .fixed
  | .wselAddr _ => .wselAddr
  | .wselData _ => .wselData
  | .hotspot _ => .hotspot
  | .snoop _ => .snoop
  | .pagedRam _ _ _ => .pagedRam

/-- `CurBank`: the register `bank`, or the constant 0 under FIXED (41_bank_switch.md R103). -/
def Controller.curBank : Controller → Nat
  | .fixed => 0
  | .wselAddr b => b
  | .wselData b => b
  | .hotspot b => b
  | .snoop b => b
  | .pagedRam b _ _ => b

/-- `HotspotStep(a, w)` on the bank index (41_bank_switch.md R102, R109, R111). -/
def hotspotStep (cfg : Configuration) (a : Addr) (w : Bool) (bank : Nat) : Nat :=
  if !w || cfg.hotspotOnWrite then
    match hotspotIndex cfg a with
    | some b => reduceBank cfg b
    | none => bank
  else bank

/-- The page-register write (41_bank_switch.md R102, R116). -/
def pageStep (cfg : Configuration) (a : Addr) (w : Bool) (d : Byte) (page : Nat) : Nat :=
  if w && a.toNat == cfg.pageRegAddr then reducePage cfg d.toNat else page

/-- `Trigger(a, w, d)` (41_bank_switch.md R102), on the raw bus address. -/
def trigger (cfg : Configuration) (a : Addr) (w : Bool) (d : Byte) : Controller → Controller
  | .fixed => .fixed
  | .wselAddr b => .wselAddr (if w && inCart cfg a then reduceBank cfg (wselAddrIndex cfg a) else b)
  | .wselData b => .wselData (if w && inCart cfg a then reduceBank cfg (wselDataIndex cfg d) else b)
  | .hotspot b => .hotspot (hotspotStep cfg a w b)
  | .snoop b => .snoop (if snoopHit cfg a then reduceBank cfg (snoopIndex cfg a) else b)
  | .pagedRam b p m => .pagedRam (hotspotStep cfg a w b) (pageStep cfg a w d p) m

/-- `CartRespond(o, 0, -)` (41_bank_switch.md R103): the byte the cartridge shows at a window offset. -/
def cartRead (cfg : Configuration) (o : Nat) : Controller → Byte
  | .fixed => bankByte cfg 0 o
  | .wselAddr b => bankByte cfg b o
  | .wselData b => bankByte cfg b o
  | .hotspot b => bankByte cfg b o
  | .snoop b => bankByte cfg b o
  | .pagedRam b p m => if inOverlay cfg o then Memory.read m (overlayIndex cfg p o) else bankByte cfg b o

/-- `CartRespond(o, 1, d)` (41_bank_switch.md R103): a store into the overlay; every other write in the
window is discarded. -/
def cartWrite (cfg : Configuration) (o : Nat) (d : Byte) : Controller → Controller
  | .fixed => .fixed
  | .wselAddr b => .wselAddr b
  | .wselData b => .wselData b
  | .hotspot b => .hotspot b
  | .snoop b => .snoop b
  | .pagedRam b p m =>
    .pagedRam b p (if inOverlay cfg o then Memory.write m (overlayIndex cfg p o) d else m)

end Sys2Proof.Machine
end

