-- ==== Sys2Proof/Machine/OpenBus.lean ====
section
/-! DEFINITION. The collaborator reads and the open-bus resolver (42_open_bus.md). A function of this
file gives the byte and the collaborator calls made for it; none writes state (R136). -/

namespace Sys2Proof.Machine

/-- `VideoRead(o, ob, sed)`: the video chip's free answer, with the call (00_scope.md R6, R10). -/
def videoRead (s : State) (o : Nat) (ob : Byte) (sed : Bool) : Byte × List Call :=
  (Config.videoAnswer s.turn o ob sed, [.videoRead o ob sed (Config.videoAnswer s.turn o ob sed)])

/-- `IoRead(o, sed)`: the I/O timer chip's free answer, with the call. -/
def ioRead (s : State) (o : Nat) (sed : Bool) : Byte × List Call :=
  (Config.ioAnswer s.turn o sed, [.ioRead o sed (Config.ioAnswer s.turn o sed)])

/-- `Peek1(p)` (42_open_bus.md R134): a side-effect-free decode, one level deep, with `lastByte` in the
place of a nested open-bus value. -/
def peekOne (s : State) (p : Addr) : Byte × List Call :=
  match matchRegion s.cfg.regions p with
  | none => (s.trace.lastByte, [])
  | some (.video, o) => videoRead s o s.trace.lastByte true
  | some (.ioram, o) => (Memory.read s.ioRam o, [])
  | some (.ioreg, o) => ioRead s o true
  | some (.cart, o) => (cartRead s.cfg o s.controller, [])

/-- `OpenBus(a)` (42_open_bus.md R130): the four steps and the variant of step 3, from the trace as
phase 3 has not yet changed it. -/
def openBus (s : State) (a : Addr) : Byte × List Call :=
  if !undriven s.cfg s.trace.lastAddr then (lowByte a, [])
  else if s.trace.lastByte.toNat < s.cfg.obThreshold ∨ s.trace.lastByte = 0xFF then
    (s.trace.lastByte, [])
  else if s.cfg.obCheckPrevAddr && !undriven s.cfg s.trace.prevAddr then (s.trace.lastByte, [])
  else if s.trace.prevByte = s.cfg.obIndirectOpcode then peekOne s (peekAddr s.trace.lastByte)
  else (s.trace.lastByte, [])

end Sys2Proof.Machine
end

