-- ==== Sys2Proof/Machine/Access.lean ====
section
/-! DEFINITION. The decode procedure every bus cycle runs (40_bus_decoder.md R80): phase 1, the
bank-switch side effects; phase 2, the data response of the owner; phase 3, the bus trace. -/

namespace Sys2Proof.Machine

/-- Phase 1: the triggers, whoever owns the address (40_bus_decoder.md R80, R86). -/
def triggered (s : State) (a : Addr) (w : Bool) (d : Byte) : State :=
  s.setController (trigger s.cfg a w d s.controller)

/-- Phase 2 of a read cycle (40_bus_decoder.md R80): the result byte and the collaborator calls. The
video chip is handed the open-bus byte (R89). -/
def readData (s : State) (a : Addr) (sed : Bool) : Byte × List Call :=
  match matchRegion s.cfg.regions a with
  | none => openBus s a
  | some (.video, o) =>
    ((videoRead s o (openBus s a).1 sed).1,
      (openBus s a).2 ++ (videoRead s o (openBus s a).1 sed).2)
  | some (.ioram, o) => (Memory.read s.ioRam o, [])
  | some (.ioreg, o) => ioRead s o sed
  | some (.cart, o) => (cartRead s.cfg o s.controller, [])

/-- Phase 2 of a write cycle (40_bus_decoder.md R80): the state with the byte stored; a write to an
unclaimed address is discarded (R84). -/
def writeData (s : State) (a : Addr) (d : Byte) : State :=
  match matchRegion s.cfg.regions a with
  | none => s
  | some (.video, _) => s
  | some (.ioram, o) => s.setIoRam (Memory.write s.ioRam o d)
  | some (.ioreg, _) => s
  | some (.cart, o) => s.setController (cartWrite s.cfg o d s.controller)

/-- The write events of phase 2 of a write cycle (00_scope.md R10, 40_bus_decoder.md R82). -/
def writeCalls (s : State) (a : Addr) (d : Byte) : List Call :=
  match matchRegion s.cfg.regions a with
  | none => []
  | some (.video, o) => [.videoWrite o d]
  | some (.ioram, _) => []
  | some (.ioreg, o) => [.ioWrite o d]
  | some (.cart, _) => []

/-- The trace after a fetch of byte `b` at address `a` (10_state.md R29). -/
def Trace.shift (t : Trace) (b : Byte) (a : Addr) : Trace where
  lastByte := b
  lastAddr := a
  prevByte := t.lastByte
  prevAddr := t.lastAddr

/-- Phase 3: only a FETCH updates the trace (40_bus_decoder.md R80, 10_state.md R29). -/
def traced (k : CycleKind) (s : State) (b : Byte) (a : Addr) : State :=
  if k.isFetch then s.setTrace (Trace.shift s.trace b a) else s

/-- `Access(c)` (40_bus_decoder.md R80) for a cycle of kind `k` at address `a` with data `d`. A PEEK
skips phase 1, and the collaborators, who get `sed = 1`, do not change (R85, 30_encoding.md R72). -/
def access (k : CycleKind) (a : Addr) (d : Byte) (s : State) : State :=
  if k.sed then
    s.setOutput (.read (readData s a true).1 (readData s a true).2)
  else if k.isWrite then
    ((writeData (triggered s a true d) a d).setOutput (.write (writeCalls (triggered s a true d) a d))).tick
  else
    ((traced k (triggered s a false d) (readData (triggered s a false d) a false).1 a).setOutput
      (.read (readData (triggered s a false d) a false).1
        (readData (triggered s a false d) a false).2)).tick

end Sys2Proof.Machine
end

