-- ==== Sys2Proof/Machine/BusCycles.lean ====
section
/-! DEFINITION. The meanings of the bus-cycle rows: READ, WRITE, FETCH, PEEK (40_bus_decoder.md R81 to
R85) and the four reserved kinds (30_encoding.md R63). -/

namespace Sys2Proof.Machine

/-- READ (40_bus_decoder.md R81). -/
def execRead (a : Addr) (s : State) : Host.Outcome State Fault Refusal :=
  whenRunning s (access .read a 0 s)

/-- WRITE (40_bus_decoder.md R82). -/
def execWrite (a : Addr) (d : Byte) (s : State) : Host.Outcome State Fault Refusal :=
  whenRunning s (access .write a d s)

/-- FETCH (40_bus_decoder.md R83). -/
def execFetch (a : Addr) (s : State) : Host.Outcome State Fault Refusal :=
  whenRunning s (access .fetch a 0 s)

/-- PEEK (40_bus_decoder.md R85). -/
def execPeek (a : Addr) (s : State) : Host.Outcome State Fault Refusal :=
  whenRunning s (access .peek a 0 s)

/-- The reserved kind 011 (30_encoding.md R63). -/
def execReservedK011 (a : Addr) (d : Byte) (s : State) : Host.Outcome State Fault Refusal :=
  whenRunning s (refuseCycle (descriptorOf 0b011 a d) s)

/-- The reserved kind 101 (30_encoding.md R63). -/
def execReservedK101 (a : Addr) (d : Byte) (s : State) : Host.Outcome State Fault Refusal :=
  whenRunning s (refuseCycle (descriptorOf 0b101 a d) s)

/-- The reserved kind 110 (30_encoding.md R63). -/
def execReservedK110 (a : Addr) (d : Byte) (s : State) : Host.Outcome State Fault Refusal :=
  whenRunning s (refuseCycle (descriptorOf 0b110 a d) s)

/-- The reserved kind 111 (30_encoding.md R63). -/
def execReservedK111 (a : Addr) (d : Byte) (s : State) : Host.Outcome State Fault Refusal :=
  whenRunning s (refuseCycle (descriptorOf 0b111 a d) s)

end Sys2Proof.Machine
end

