-- ==== Sys2Proof/Machine/Display.lean ====
section
/-! DEFINITION. The meaning of VSYNC, the display-timing classifier's one operation
(43_display_timing.md R143). -/

namespace Sys2Proof.Machine

/-- `Observe(I)` (43_display_timing.md R143): the geometry and the output bit; nothing else. -/
def observe (i : Lines) (s : State) : State :=
  ((s.setGeometry (observedGeometry s.cfg s.geometry i)).setOutput
    (.vsync (commitFlag s.cfg s.geometry i))).tick

/-- VSYNC (43_display_timing.md R143). -/
def execVsync (i : Lines) (s : State) : Host.Outcome State Fault Refusal :=
  whenRunning s (observe i s)

end Sys2Proof.Machine
end

