-- ==== Sys2Proof/Machine/Session.lean ====
section
/-! DEFINITION. Session start: the legality checks (20_memory.md R41, 41_bank_switch.md R101,
60_exceptions.md R153, R158), START (70_reset_and_hazards.md R170), and the meanings of the START
row and of the scheme-identifier rows (30_encoding.md R66). -/

namespace Sys2Proof.Machine

/-! ### The legality of a region table (20_memory.md R41) -/

/-- W1: `1 ≤ size` and `base + size ≤ 0x2000`. -/
def tableW1 (rs : List Region) : Bool :=
  rs.all (fun r => decide (1 ≤ r.size) && decide (r.base + r.size ≤ busSize))

/-- W2: `mirrorMask < 0x2000`. -/
def tableW2 (rs : List Region) : Bool := rs.all (fun r => decide (r.mirrorMask < busSize))

/-- W3: every `e` in `[base, base + size)` has `e & mirrorMask = 0`. -/
def tableW3 (rs : List Region) : Bool :=
  rs.all (fun r => (List.range r.size).all (fun k => (r.base + k) &&& r.mirrorMask == 0))

/-- How many regions of a table have an owner. -/
def ownerCount (o : Owner) (rs : List Region) : Nat := rs.countP (fun r => r.owner == o)

/-- W4: exactly one CART region; at most one VIDEO, one IORAM, one IOREG. -/
def tableW4 (rs : List Region) : Bool :=
  ownerCount .cart rs == 1 &&
    (decide (ownerCount .video rs ≤ 1) &&
      (decide (ownerCount .ioram rs ≤ 1) && decide (ownerCount .ioreg rs ≤ 1)))

/-- W5: the IORAM region has `size ≤ IORAM_SIZE`. -/
def tableW5 (rs : List Region) : Bool :=
  rs.all (fun r => r.owner != .ioram || decide (r.size ≤ ioRamSize))

/-- The place of an owner in the lookup order VIDEO, then the I/O chip's regions, then CART
(20_memory.md R44). -/
def ownerRank : Owner → Nat
  | .video => 0
  | .ioram => 1
  | .ioreg => 1
  | .cart => 2

/-- W6: the table keeps the lookup order. -/
def tableW6 : List Region → Bool
  | [] => true
  | r :: rs => rs.all (fun q => decide (ownerRank r.owner ≤ ownerRank q.owner)) && tableW6 rs

/-- The table checks in order, each with its name. -/
def tableChecks (rs : List Region) : List (CheckName × Bool) :=
  [ (.w1, tableW1 rs), (.w2, tableW2 rs), (.w3, tableW3 rs),
    (.w4, tableW4 rs), (.w5, tableW5 rs), (.w6, tableW6 rs) ]

/-! ### The legality of the kind's parameters (41_bank_switch.md R101) -/

/-- A power of two. -/
def isPow2 (n : Nat) : Bool := 2 ^ Nat.log2 n == n

/-- The conditions of every kind. -/
def imageChecks (cfg : Configuration) : List (CheckName × Bool) :=
  [ (.bankCount, decide (1 ≤ cfg.bankCount)),
    (.bankSize, isPow2 cfg.bankSize && decide (cfg.bankSize ≤ cartSize cfg.regions)) ]

/-- No control address is listed twice. -/
def hotspotsDistinct : List Hotspot → Bool
  | [] => true
  | h :: hs => hs.all (fun g => g.addr != h.addr) && hotspotsDistinct hs

/-- The conditions on HOTSPOTS. -/
def hotspotChecks (cfg : Configuration) : List (CheckName × Bool) :=
  [ (.hotspotsEmpty, !cfg.hotspots.isEmpty),
    (.hotspotsAddress, cfg.hotspots.all (fun h => decide (h.addr < busSize))),
    (.hotspotsTwice, hotspotsDistinct cfg.hotspots) ]

/-- The conditions a kind adds to those of every kind. -/
def kindChecks (cfg : Configuration) : Kind → List (CheckName × Bool)
  | .fixed => []
  | .wselAddr => [(.selectMask, decide (selectMask cfg ≤ 0x1FFF))]
  | .wselData => [(.selectMask, decide (selectMask cfg ≤ 0x1FFF))]
  | .hotspot => hotspotChecks cfg
  | .snoop =>
    [ (.snoopMask, cfg.snoopMask &&& 0x1000 == 0),
      (.snoopMatch, cfg.snoopMatch &&& cfg.snoopMask == cfg.snoopMatch),
      (.snoopShift, decide (cfg.snoopShift ≤ 12)),
      (.snoopSelect, (cfg.snoopSelect <<< cfg.snoopShift) &&& 0x1000 == 0) ]
  | .pagedRam =>
    hotspotChecks cfg ++
      [ (.ramWindow, decide (1 ≤ cfg.ramWindow)),
        (.ramBase, decide (cfg.ramBase + cfg.ramWindow ≤ cartSize cfg.regions)),
        (.ramPages, decide (1 ≤ cfg.ramPages)),
        (.pageRegAddr, decide (cfg.pageRegAddr < busSize)) ]

/-- The bytes the overlay has under a kind (41_bank_switch.md R101, 10_state.md R30). -/
def overlaySize (cfg : Configuration) : Nat := cfg.ramPages * cfg.ramWindow

/-- The image store declares an overlay of exactly the overlay's size; asked of PAGED_RAM only. -/
def overlayChecks (rec : StartRecord) : Kind → List (CheckName × Bool)
  | .fixed => []
  | .wselAddr => []
  | .wselData => []
  | .hotspot => []
  | .snoop => []
  | .pagedRam => [(.overlay, rec.overlayBytes == some (overlaySize rec.cfg))]

/-- DT_CANDIDATES is not empty (60_exceptions.md R153). -/
def candidateChecks (cfg : Configuration) : List (CheckName × Bool) :=
  [(.dtCandidates, !cfg.dtCandidates.isEmpty)]

/-- The first check of a list that fails. -/
def firstFailing : List (CheckName × Bool) → Option CheckName
  | [] => none
  | (c, ok) :: rest => if ok then firstFailing rest else some c

/-- What START checks once the kind is known, in the order of 60_exceptions.md R158. -/
def startChecks (rec : StartRecord) (k : Kind) : List (CheckName × Bool) :=
  tableChecks rec.cfg.regions ++
    ((imageChecks rec.cfg ++ (kindChecks rec.cfg k ++ overlayChecks rec k)) ++ candidateChecks rec.cfg)

/-! ### START (70_reset_and_hazards.md R170) -/

/-- The kind a scheme id declares (30_encoding.md R66); `none` for the ids 6 to 255. -/
def kindOfId (id : SchemeId) : Option Kind :=
  if id = 0 then some .fixed
  else if id = 1 then some .wselAddr
  else if id = 2 then some .wselData
  else if id = 3 then some .hotspot
  else if id = 4 then some .snoop
  else if id = 5 then some .pagedRam
  else none

/-- The controller at session start (70_reset_and_hazards.md R170): both indices reduced, the overlay
holding INIT_CARTRAM. -/
def initialController (rec : StartRecord) : Kind → Controller
  | .fixed => .fixed
  | .wselAddr => .wselAddr (reduceBank rec.cfg rec.initBank)
  | .wselData => .wselData (reduceBank rec.cfg rec.initBank)
  | .hotspot => .hotspot (reduceBank rec.cfg rec.initBank)
  | .snoop => .snoop (reduceBank rec.cfg rec.initBank)
  | .pagedRam =>
    .pagedRam (reduceBank rec.cfg rec.initBank) (reducePage rec.cfg rec.initPage)
      (Memory.load (overlaySize rec.cfg) rec.initCartRam)

/-- The configuration in force: the record's, its ROM image in canonical form. -/
def sessionConfiguration (cfg : Configuration) : Configuration :=
  { cfg with rom := Memory.load (cfg.bankCount * cfg.bankSize) cfg.rom }

/-- The successful end of START (70_reset_and_hazards.md R170, R171). -/
def openSession (k : Kind) (rec : StartRecord) (s : State) : State :=
  { s with
    status := .running
    cfg := sessionConfiguration rec.cfg
    controller := initialController rec k
    ioRam := Memory.load ioRamSize rec.initIoRam
    trace := rec.initTrace
    geometry := rec.cfg.defaultGeometry
    refusalMark := []
    record := rec
    output := .start .running }

/-- `Start(cfg)` (70_reset_and_hazards.md R170). It issues no bus cycle and calls no collaborator. -/
def startSession (rec : StartRecord) (s : State) : State :=
  match kindOfId rec.schemeId with
  | none => (refuseSession (.unknownMappingScheme rec.schemeId) rec s).tick
  | some k =>
    match firstFailing (startChecks rec k) with
    | some c => (refuseSession (.invalidConfiguration c) rec s).tick
    | none => (openSession k rec s).tick

/-- A record with another scheme id declared. -/
def declareScheme (rec : StartRecord) (id : SchemeId) : StartRecord := { rec with schemeId := id }

/-- START with its record (70_reset_and_hazards.md R170). In a RUNNING session it begins a new session
(notes/assumptions/3.md). -/
def execStart (rec : StartRecord) (s : State) : Host.Outcome State Fault Refusal :=
  whenRunning s (startSession rec s)

/-- Session start declaring FIXED (41_bank_switch.md R105; notes/assumptions/4.md). -/
def execSchemeFixed (s : State) : Host.Outcome State Fault Refusal :=
  whenRunning s (startSession (declareScheme s.record 0) s)

/-- Session start declaring WSEL_ADDR (41_bank_switch.md R106). -/
def execSchemeWselAddr (s : State) : Host.Outcome State Fault Refusal :=
  whenRunning s (startSession (declareScheme s.record 1) s)

/-- Session start declaring WSEL_DATA (41_bank_switch.md R107). -/
def execSchemeWselData (s : State) : Host.Outcome State Fault Refusal :=
  whenRunning s (startSession (declareScheme s.record 2) s)

/-- Session start declaring HOTSPOT (41_bank_switch.md R109). -/
def execSchemeHotspot (s : State) : Host.Outcome State Fault Refusal :=
  whenRunning s (startSession (declareScheme s.record 3) s)

/-- Session start declaring SNOOP (41_bank_switch.md R112). -/
def execSchemeSnoop (s : State) : Host.Outcome State Fault Refusal :=
  whenRunning s (startSession (declareScheme s.record 4) s)

/-- Session start declaring PAGED_RAM (41_bank_switch.md R117). -/
def execSchemePagedRam (s : State) : Host.Outcome State Fault Refusal :=
  whenRunning s (startSession (declareScheme s.record 5) s)

/-- Session start declaring an id of no scheme (60_exceptions.md R152). -/
def execSchemeUnknown (id : SchemeId) (s : State) : Host.Outcome State Fault Refusal :=
  whenRunning s (startSession (declareScheme s.record id) s)

end Sys2Proof.Machine
end

