-- ==== Sys2Proof/Machine/Dispatch.lean ====
section
/-! DEFINITION. The dispatch: one arm per constructor of Instr, each one call of that instruction's
meaning. -/

namespace Sys2Proof.Machine

def exec (i : Instr) (s : State) : Host.Outcome State Fault Refusal :=
  match i with
  | .read a => Sys2Proof.Machine.execRead a s
  | .write a d => Sys2Proof.Machine.execWrite a d s
  | .fetch a => Sys2Proof.Machine.execFetch a s
  | .peek a => Sys2Proof.Machine.execPeek a s
  | .reservedK011 a d => Sys2Proof.Machine.execReservedK011 a d s
  | .reservedK101 a d => Sys2Proof.Machine.execReservedK101 a d s
  | .reservedK110 a d => Sys2Proof.Machine.execReservedK110 a d s
  | .reservedK111 a d => Sys2Proof.Machine.execReservedK111 a d s
  | .vsync interval => Sys2Proof.Machine.execVsync interval s
  | .start record => Sys2Proof.Machine.execStart record s
  | .schemeFixed => Sys2Proof.Machine.execSchemeFixed s
  | .schemeWselAddr => Sys2Proof.Machine.execSchemeWselAddr s
  | .schemeWselData => Sys2Proof.Machine.execSchemeWselData s
  | .schemeHotspot => Sys2Proof.Machine.execSchemeHotspot s
  | .schemeSnoop => Sys2Proof.Machine.execSchemeSnoop s
  | .schemePagedRam => Sys2Proof.Machine.execSchemePagedRam s
  | .schemeUnknown id => Sys2Proof.Machine.execSchemeUnknown id s

end Sys2Proof.Machine
end

