-- ==== Sys2Proof/Machine/Step.lean ====
section
/-! DEFINITION. One step: CORE consumes exactly one input (00_scope.md R5). -/

namespace Sys2Proof.Machine

/-- The machine's step: the next input is taken from the port, decoded and executed. With no input
waiting there is no step. -/
def step (s : State) : Host.Outcome State Fault Refusal :=
  match takeInput s with
  | none => .fault .noInput
  | some (i, t) => exec (decode i) t

/-- The state with an opcode-table word at the input port, so that the next step runs it. -/
def State.withFetchWord (s : State) (nbits w : Nat) : State := placeTableWord s nbits w

end Sys2Proof.Machine
end

