-- ==== Sys2Proof/Machine/TraceLine.lean ====
section
/-! DEFINITION. The spec's line syntax for cycle sequences and its two pseudo-operations
(30_encoding.md R73). No step uses it. -/

namespace Sys2Proof.Machine

/-- One hexadecimal digit. -/
def hexDigit (n : Nat) : Char :=
  ['0', '1', '2', '3', '4', '5', '6', '7', '8', '9', 'A', 'B', 'C', 'D', 'E', 'F'].getD n '?'

/-- A byte as two hexadecimal digits. -/
def hexByte (n : Nat) : List Char := [hexDigit (n / 16 % 16), hexDigit (n % 16)]

/-- An address as four hexadecimal digits. -/
def hexAddr (a : Addr) : List Char := hexByte (a.toNat / 256) ++ hexByte (a.toNat % 256)

/-- The decimal digits of a number below `10 ^ fuel`, the units last. -/
def decimalDigits : Nat → Nat → List Char
  | 0, _ => []
  | fuel + 1, n => (if n < 10 then [] else decimalDigits fuel (n / 10)) ++ [hexDigit (n % 10)]

/-- The line of an operation; the reserved kinds and the scheme rows have none, and START is written
with the name of its configuration, which the record does not hold. -/
def traceLine (cfgName : List Char) : Instr → Option (List Char)
  | .read a => some (['R', ' '] ++ hexAddr a)
  | .write a d => some (['W', ' '] ++ hexAddr a ++ [','] ++ hexByte d.toNat)
  | .fetch a => some (['F', ' '] ++ hexAddr a)
  | .peek a => some (['P', ' '] ++ hexAddr a)
  | .reservedK011 _ _ => none
  | .reservedK101 _ _ => none
  | .reservedK110 _ _ => none
  | .reservedK111 _ _ => none
  | .vsync i => some (['V', ' '] ++ decimalDigits 5 i.toNat)
  | .start _ => some (['S', 'T', 'A', 'R', 'T', ' '] ++ cfgName)
  | .schemeFixed => none
  | .schemeWselAddr => none
  | .schemeWselData => none
  | .schemeHotspot => none
  | .schemeSnoop => none
  | .schemePagedRam => none
  | .schemeUnknown _ => none

/-- `SEL b` under HOTSPOT or PAGED_RAM: a READ of the first hotspot whose bank field is `b`. -/
def pseudoSel (cfg : Configuration) (b : Nat) : Option Instr :=
  match cfg.hotspots.find? (fun h => h.bank == b) with
  | some h => some (.read (BitVec.ofNat 13 h.addr))
  | none => none

/-- `WSEL b` under WSEL_ADDR: `W (CART.base + b),00`. -/
def pseudoWsel (cfg : Configuration) (b : Nat) : Option Instr :=
  match cartRegion cfg.regions with
  | some r => some (.write (BitVec.ofNat 13 (r.base + b)) 0)
  | none => none

end Sys2Proof.Machine
end

