-- ==== Sys2Proof/Safety.lean ====
section
/-! DEFINITION. What claims call a consistent state, a legal START record, a run inside the modelled
hardware, and the answer of a read cycle. -/

namespace Sys2Proof.Machine

/-! ### Consistency -/

/-- The checks START made of the configuration in force, the overlay's declared size apart. -/
def configurationChecks (cfg : Configuration) (k : Kind) : List (CheckName × Bool) :=
  tableChecks cfg.regions ++ ((imageChecks cfg ++ kindChecks cfg k) ++ candidateChecks cfg)

/-- The configuration in force is legal for the session's kind, and its ROM image is in canonical
form and of the image's size. -/
def Configuration.Legal (cfg : Configuration) (k : Kind) : Prop :=
  firstFailing (configurationChecks cfg k) = none ∧ Memory.wf cfg.rom = true ∧
    Memory.within (cfg.bankCount * cfg.bankSize) cfg.rom = true

/-- The controller holds legal values only: `bank < BANK_COUNT` (10_state.md R24), `page < RAM_PAGES`
(R25), CartRam canonical and of the overlay's size (R30). -/
def Controller.Legal (cfg : Configuration) : Controller → Prop
  | .fixed => True
  | .wselAddr b => b < cfg.bankCount
  | .wselData b => b < cfg.bankCount
  | .hotspot b => b < cfg.bankCount
  | .snoop b => b < cfg.bankCount
  | .pagedRam b p m =>
    b < cfg.bankCount ∧ p < cfg.ramPages ∧ Memory.wf m = true ∧ Memory.within (overlaySize cfg) m = true

/-- The invariant of the machine: every element of 10_state.md R20 holds a legal value. -/
structure State.Consistent (s : State) : Prop where
  config : Configuration.Legal s.cfg s.controller.kind
  controller : Controller.Legal s.cfg s.controller
  ioRamWf : Memory.wf s.ioRam = true
  ioRamWithin : Memory.within ioRamSize s.ioRam = true

/-- A state reached inside the modelled hardware: the session runs and no refusal mark is kept
(60_exceptions.md R155: "a claim about the run takes its absence as a premise"). -/
def State.Clean (s : State) : Prop := s.status = .running ∧ s.refusalMark = []

/-! ### Legal START records, as the rules say them -/

/-- W1 to W6 of 20_memory.md R41. -/
def LegalTable (rs : List Region) : Prop :=
  (∀ r ∈ rs, 1 ≤ r.size ∧ r.base + r.size ≤ 0x2000) ∧
  (∀ r ∈ rs, r.mirrorMask < 0x2000) ∧
  (∀ r ∈ rs, ∀ e, r.base ≤ e → e < r.base + r.size → e &&& r.mirrorMask = 0) ∧
  (ownerCount .cart rs = 1 ∧ ownerCount .video rs ≤ 1 ∧ ownerCount .ioram rs ≤ 1 ∧
    ownerCount .ioreg rs ≤ 1) ∧
  (∀ r ∈ rs, r.owner = .ioram → r.size ≤ 128) ∧
  List.Pairwise (fun r q => ownerRank r.owner ≤ ownerRank q.owner) rs

/-- The conditions of 41_bank_switch.md R101 on HOTSPOTS. -/
def LegalHotspots (hs : List Hotspot) : Prop :=
  hs ≠ [] ∧ (∀ h ∈ hs, h.addr < 0x2000) ∧ List.Pairwise (fun h g => g.addr ≠ h.addr) hs

/-- The conditions a kind adds in 41_bank_switch.md R101. -/
def LegalKind (cfg : Configuration) : Kind → Prop
  | .fixed => True
  | .wselAddr => selectMask cfg ≤ 0x1FFF
  | .wselData => selectMask cfg ≤ 0x1FFF
  | .hotspot => LegalHotspots cfg.hotspots
  | .snoop =>
    cfg.snoopMask &&& 0x1000 = 0 ∧ cfg.snoopMatch &&& cfg.snoopMask = cfg.snoopMatch ∧
      cfg.snoopShift ≤ 12 ∧ (cfg.snoopSelect <<< cfg.snoopShift) &&& 0x1000 = 0
  | .pagedRam =>
    LegalHotspots cfg.hotspots ∧ 1 ≤ cfg.ramWindow ∧
      cfg.ramBase + cfg.ramWindow ≤ cartSize cfg.regions ∧ 1 ≤ cfg.ramPages ∧ cfg.pageRegAddr < 0x2000

/-- The record of a START that succeeds as kind `k` (20_memory.md R41, 41_bank_switch.md R101,
60_exceptions.md R153). -/
def LegalStart (rec : StartRecord) (k : Kind) : Prop :=
  LegalTable rec.cfg.regions ∧
  (1 ≤ rec.cfg.bankCount ∧ (∃ j, rec.cfg.bankSize = 2 ^ j) ∧ rec.cfg.bankSize ≤ cartSize rec.cfg.regions) ∧
  LegalKind rec.cfg k ∧
  (k = .pagedRam → rec.overlayBytes = some (rec.cfg.ramPages * rec.cfg.ramWindow)) ∧
  rec.cfg.dtCandidates ≠ []

/-! ### The vocabulary of frames and answers -/

/-- The inputs that start a session (30_encoding.md R60, R66). -/
def startsSession : Instr → Bool
  | .read _ => false
  | .write _ _ => false
  | .fetch _ => false
  | .peek _ => false
  | .reservedK011 _ _ => false
  | .reservedK101 _ _ => false
  | .reservedK110 _ _ => false
  | .reservedK111 _ _ => false
  | .vsync _ => false
  | .start _ => true
  | .schemeFixed => true
  | .schemeWselAddr => true
  | .schemeWselData => true
  | .schemeHotspot => true
  | .schemeSnoop => true
  | .schemePagedRam => true
  | .schemeUnknown _ => true

/-- The bus cycles, those of reserved kind included. -/
def isBusCycle : Instr → Bool
  | .vsync _ => false
  | i => !startsSession i

/-- The descriptors of a reserved kind (30_encoding.md R63). -/
def isReserved : Instr → Bool
  | .read _ => false
  | .write _ _ => false
  | .fetch _ => false
  | .peek _ => false
  | .reservedK011 _ _ => true
  | .reservedK101 _ _ => true
  | .reservedK110 _ _ => true
  | .reservedK111 _ _ => true
  | .vsync _ => false
  | .start _ => false
  | .schemeFixed => false
  | .schemeWselAddr => false
  | .schemeWselData => false
  | .schemeHotspot => false
  | .schemeSnoop => false
  | .schemePagedRam => false
  | .schemeUnknown _ => false

/-- What no bus cycle with a step and no VSYNC event changes: the status, the configuration
(10_state.md R33), the refusal mark, and the host's record and inputs. -/
def SameSession (s t : State) : Prop :=
  t.status = s.status ∧ t.cfg = s.cfg ∧ t.refusalMark = s.refusalMark ∧ t.record = s.record ∧
    t.inputs = s.inputs

/-- The result of a read cycle, owner by owner (40_bus_decoder.md R80), against the state phase 1 left;
a collaborator's answer is any byte. -/
def ReadAnswer (s : State) (a : Addr) (sed : Bool) (out : Output) : Prop :=
  match matchRegion s.cfg.regions a with
  | none => out = .read (openBus s a).1 (openBus s a).2
  | some (.video, o) =>
    ∃ v, out = .read v ((openBus s a).2 ++ [.videoRead o (openBus s a).1 sed v])
  | some (.ioram, o) => out = .read (Memory.read s.ioRam o) []
  | some (.ioreg, o) => ∃ v, out = .read v [.ioRead o sed v]
  | some (.cart, o) => out = .read (cartRead s.cfg o s.controller) []

/-- The step-3 byte of the open-bus resolver, owner by owner (42_open_bus.md R134): the byte and the
calls made for it. -/
def PeekAnswer (s : State) (p : Addr) (b : Byte) (calls : List Call) : Prop :=
  match matchRegion s.cfg.regions p with
  | none => b = s.trace.lastByte ∧ calls = []
  | some (.video, o) => calls = [.videoRead o s.trace.lastByte true b]
  | some (.ioram, o) => b = Memory.read s.ioRam o ∧ calls = []
  | some (.ioreg, o) => calls = [.ioRead o true b]
  | some (.cart, o) => b = cartRead s.cfg o s.controller ∧ calls = []

/-- The reference region table and the reference open-bus parameters (20_memory.md R45, 00_scope.md R8),
all else free: what 42_open_bus.md R134 and R136 call the reference parameters. -/
def HasReferenceOpenBus (cfg : Configuration) : Prop :=
  cfg.regions = referenceRegions ∧ cfg.obUndriven = referenceUndriven ∧ cfg.obThreshold = 0x80 ∧
    cfg.obIndirectOpcode = 0xB1 ∧ cfg.obCheckPrevAddr = false

/-- The state after a sequence of instructions, or the first stop. -/
def execAll : List Instr → State → Host.Outcome State Fault Refusal
  | [], s => .next s
  | i :: is, s =>
    match exec i s with
    | .next t => execAll is t
    | .fault r => .fault r
    | .refused r => .refused r

/-- How many events of a sequence of VSYNC pulses commit (43_display_timing.md R146). -/
def commitCount : List Lines → State → Nat
  | [], _ => 0
  | i :: is, s =>
    match exec (.vsync i) s with
    | .next t => (if t.output = .vsync true then 1 else 0) + commitCount is t
    | .fault _ => 0
    | .refused _ => 0

end Sys2Proof.Machine
end

