-- ==== Sys2Proof/Certificates/Slice0/Obligations.lean ====
section
/-! DEFINITION. The statements about the machine, for the provers. Each docstring names the rules of
spec/ it formalises, and any convention of the model it rests on by its log entry. -/

open Sys2Proof Sys2Proof.Machine

/-! ### Encoding and the step -/

/-- The descriptors of 95_test_vectors.md L2.1, a VSYNC interval and scheme ids decode to the
operations the tables give them (30_encoding.md R61, R62, R65, R66). -/
def Obligations.SpecWordsDecode : Prop :=
  decode (.cycle 0x001FF9) = .read 0x1FF9 ∧ decode (.cycle 0xFF1FF9) = .read 0x1FF9 ∧
  decode (.cycle 0x55203D) = .write 0x003D 0x55 ∧ decode (.cycle 0x005000) = .fetch 0x1000 ∧
  decode (.cycle 0x009FF9) = .peek 0x1FF9 ∧ decode (.cycle 0x006000) = .reservedK011 0 0 ∧
  decode (.cycle 0x00A085) = .reservedK101 0x0085 0 ∧ decode (.cycle 0x00C000) = .reservedK110 0 0 ∧
  decode (.cycle 0x12E000) = .reservedK111 0 0x12 ∧ decode (.vsync 263) = .vsync 263 ∧
  decode (.schemeId 1) = .schemeWselAddr ∧ decode (.schemeId 5) = .schemePagedRam ∧
  decode (.schemeId 6) = .schemeUnknown 6

/-- A step consumes exactly one input and is the execution of what that input decodes to, on the state
without it; with no input there is no step (00_scope.md R5). The queue is the model's
(notes/assumptions/8.md). -/
def Obligations.StepRunsTheDecodedInput : Prop :=
  ∀ s : State,
    (∀ i rest, s.inputs = i :: rest → step s = exec (decode i) (s.setInputs rest)) ∧
    (s.inputs = [] → step s = .fault .noInput)

/-- When the word of a well-formed instruction stands first at the input port, the step is that
instruction's execution. -/
def Obligations.StepRunsTheEncodedInstruction : Prop :=
  ∀ (i : Instr) (s : State), i.wf = true → step (placeInput (encode i) s) = exec i s

/-- Decoding an encoded well-formed instruction gives it back, with every operand at every value. -/
def Obligations.DecodeAfterEncodeIsIdentity : Prop :=
  ∀ i : Instr, i.wf = true → decode (encode i) = i

/-- The kind table, and the descriptor's fields: every descriptor is `(D, K, A)`; `K` decides the
operation; the data byte of READ, FETCH and PEEK is don't-care (30_encoding.md R61, R62). -/
def Obligations.KindFieldDecidesTheOperation : Prop :=
  (∀ c : Descriptor, c = descriptorOf (c.extractLsb' 13 3) (c.extractLsb' 0 13) (c.extractLsb' 16 8)) ∧
  ∀ (a : Addr) (d : Byte),
    decode (.cycle (descriptorOf 0b000 a d)) = .read a ∧
    decode (.cycle (descriptorOf 0b001 a d)) = .write a d ∧
    decode (.cycle (descriptorOf 0b010 a d)) = .fetch a ∧
    decode (.cycle (descriptorOf 0b100 a d)) = .peek a ∧
    decode (.cycle (descriptorOf 0b011 a d)) = .reservedK011 a d ∧
    decode (.cycle (descriptorOf 0b101 a d)) = .reservedK101 a d ∧
    decode (.cycle (descriptorOf 0b110 a d)) = .reservedK110 a d ∧
    decode (.cycle (descriptorOf 0b111 a d)) = .reservedK111 a d

/-- The packing of a region descriptor has its fields where 30_encoding.md R64 puts them: the owner code
at `[1:0]`, the base at `[14:2]`, the size at `[28:15]`, the mirror mask at `[41:29]`. Packing one
with legal field values and unpacking it gives it back, and every packed word is the packing of
what it unpacks to. -/
def Obligations.RegionPackingIsFaithful : Prop :=
  (∀ r : Region, r.base < 0x2000 → r.size ≤ 0x2000 → r.mirrorMask < 0x2000 →
    unpackRegion (packRegion r) = r ∧
    (r.owner = .video → (packRegion r).extractLsb' 0 2 = 0) ∧ (r.owner = .ioram → (packRegion r).extractLsb' 0 2 = 1) ∧
    (r.owner = .ioreg → (packRegion r).extractLsb' 0 2 = 2) ∧ (r.owner = .cart → (packRegion r).extractLsb' 0 2 = 3) ∧
    ((packRegion r).extractLsb' 2 13).toNat = r.base ∧ ((packRegion r).extractLsb' 15 14).toNat = r.size ∧
    ((packRegion r).extractLsb' 29 13).toNat = r.mirrorMask) ∧
  ∀ w : BitVec 42, packRegion (unpackRegion w) = w

/-! ### The address map -/

/-- `Match` gives the first region of the table, in table order, whose effective address lies in
`[base, base + size)`, with the offset; and `none` exactly where no region's does
(20_memory.md R42, R43). -/
def Obligations.MatchGivesTheFirstClaimingRegion : Prop :=
  ∀ (rs : List Region) (a : Addr),
    (∀ w o, matchRegion rs a = some (w, o) ↔
      ∃ pre r post, rs = pre ++ r :: post ∧ r.owner = w ∧
        r.base ≤ (a &&& ~~~(BitVec.ofNat 13 r.mirrorMask)).toNat ∧
        (a &&& ~~~(BitVec.ofNat 13 r.mirrorMask)).toNat < r.base + r.size ∧
        o = (a &&& ~~~(BitVec.ofNat 13 r.mirrorMask)).toNat - r.base ∧
        ∀ q ∈ pre, ¬(q.base ≤ (a &&& ~~~(BitVec.ofNat 13 q.mirrorMask)).toNat ∧
          (a &&& ~~~(BitVec.ofNat 13 q.mirrorMask)).toNat < q.base + q.size)) ∧
    (matchRegion rs a = none ↔
      ∀ q ∈ rs, ¬(q.base ≤ (a &&& ~~~(BitVec.ofNat 13 q.mirrorMask)).toNat ∧
        (a &&& ~~~(BitVec.ofNat 13 q.mirrorMask)).toNat < q.base + q.size))

/-- Two addresses that differ only in bits of a region's mirror mask are one location of that region:
both or neither is claimed, at one offset (20_memory.md R42). -/
def Obligations.MirrorsAreOneLocation : Prop :=
  ∀ (r : Region) (a m : Addr),
    claims r (a ^^^ (m &&& BitVec.ofNat 13 r.mirrorMask)) = claims r a ∧
    regionOffset r (a ^^^ (m &&& BitVec.ofNat 13 r.mirrorMask)) = regionOffset r a

/-- A region repeating with stride `2^i` in an aligned window of `2^j` addresses (20_memory.md R46): its
mask has exactly the bits `i` to `j - 1`, so the effective address keeps the window and the place
in the stride and nothing between, and two addresses have one effective address exactly when they
lie in one window and agree modulo the stride. -/
def Obligations.StrideAndWindowGiveTheMask : Prop :=
  strideMask 0x100 0x400 = 0x300 ∧
  (∀ i j k : Nat, i ≤ j → (strideMask (2 ^ i) (2 ^ j)).testBit k = (decide (i ≤ k) && decide (k < j))) ∧
  ∀ (r : Region) (i j : Nat) (a b : Addr), i ≤ j → j ≤ 13 → r.mirrorMask = strideMask (2 ^ i) (2 ^ j) →
    effectiveAddr r a = 2 ^ j * (a.toNat / 2 ^ j) + a.toNat % 2 ^ i ∧
    (effectiveAddr r a = effectiveAddr r b ↔
      a.toNat / 2 ^ j = b.toNat / 2 ^ j ∧ a.toNat % 2 ^ i = b.toNat % 2 ^ i)

/-- The reference table claims addresses by their bits as 20_memory.md R45 lists them: VIDEO, IORAM,
IOREG, CART, and unclaimed otherwise. -/
def Obligations.ReferenceMapByAddressBits : Prop :=
  ∀ a : Addr, matchRegion referenceRegions a =
    if a.getLsbD 12 then some (.cart, a.toNat % 0x1000)
    else if !a.getLsbD 7 then some (.video, a.toNat % 0x80)
    else if !a.getLsbD 9 then some (.ioram, a.toNat % 0x80)
    else if !a.getLsbD 6 && !a.getLsbD 5 then some (.ioreg, a.toNat % 0x20)
    else none

/-! ### Reset and session start -/

/-- The state after reset is RUNNING with a clear refusal mark (70_reset_and_hazards.md R171), and is
the state a START of the reference record makes; the record's values are the model's choice
(notes/assumptions/6.md, 7.md). -/
def Obligations.ResetIsASuccessfulStart : Prop :=
  State.reset.status = .running ∧ State.reset.refusalMark = [] ∧
  exec (.start referenceRecord) State.reset = .next State.reset.tick

/-- The state after reset is consistent. -/
def Obligations.ResetIsConsistent : Prop := State.Consistent State.reset

/-- Every step from a consistent state that gives a next state gives a consistent one: the bank below
BANK_COUNT, the page below RAM_PAGES, the memories canonical and within their sizes, the
configuration legal. -/
def Obligations.StepKeepsConsistency : Prop :=
  ∀ s t : State, s.Consistent → step s = .next t → t.Consistent

/-- A REFUSED session has no step for any input (10_state.md R32). -/
def Obligations.RefusedSessionHasNoStep : Prop :=
  ∀ (s : State) (r : RefuseReason) (i : Instr), s.status = .refused r → exec i s = .fault (.sessionRefused r)

/-- In a RUNNING session every input has a next state: no cycle stalls (60_exceptions.md R156,
41_bank_switch.md R119). For three kinds of input that state is the model's choice: the reserved
kinds, of which R63 and R155 say "no step" (notes/assumptions/1.md), a START inside a session
(notes/assumptions/3.md), and the scheme rows (notes/assumptions/4.md). -/
def Obligations.RunningSessionAlwaysSteps : Prop :=
  ∀ (s : State) (i : Instr), s.status = .running → ∃ t, exec i s = .next t

/-- START succeeds exactly on the records that meet the rules' conditions (20_memory.md R41,
41_bank_switch.md R101, 60_exceptions.md R153). -/
def Obligations.StartRunsExactlyTheLegalRecords : Prop :=
  ∀ (s : State) (rec : StartRecord) (k : Kind), s.status = .running → kindOfId rec.schemeId = some k →
    ∃ t, exec (.start rec) s = .next t ∧ (t.status = .running ↔ LegalStart rec k)

/-- A successful START gives every element its value (70_reset_and_hazards.md R170, R171). Contents
given in canonical form are taken as they are (notes/assumptions/11.md). -/
def Obligations.SuccessfulStartSetsEveryElement : Prop :=
  ∀ (s : State) (rec : StartRecord) (k : Kind), s.status = .running → kindOfId rec.schemeId = some k →
    LegalStart rec k →
    ∃ t, exec (.start rec) s = .next t ∧ t.status = .running ∧ t.refusalMark = [] ∧
      t.controller = initialController rec k ∧ t.controller.kind = k ∧
      (k ≠ .fixed → t.controller.curBank = rec.initBank % rec.cfg.bankCount) ∧
      (k = .pagedRam → ∃ m, t.controller =
        .pagedRam (rec.initBank % rec.cfg.bankCount) (rec.initPage % rec.cfg.ramPages) m ∧
        (Memory.wf rec.initCartRam = true →
          Memory.within (rec.cfg.ramPages * rec.cfg.ramWindow) rec.initCartRam = true →
          m = rec.initCartRam)) ∧
      (Memory.wf rec.initIoRam = true → Memory.within 128 rec.initIoRam = true → t.ioRam = rec.initIoRam) ∧
      t.trace = rec.initTrace ∧ t.geometry = rec.cfg.defaultGeometry ∧
      t.cfg = sessionConfiguration rec.cfg ∧
      (Memory.wf rec.cfg.rom = true → Memory.within (rec.cfg.bankCount * rec.cfg.bankSize) rec.cfg.rom = true →
        t.cfg = rec.cfg) ∧
      t.record = rec ∧ t.inputs = s.inputs ∧ t.output = .start .running

/-- START with an id outside 0 to 5 sets REFUSED(UnknownMappingScheme), whatever else the record holds:
the id is checked first (60_exceptions.md R152, R158). -/
def Obligations.UnknownSchemeIsRefusedFirst : Prop :=
  ∀ (s : State) (rec : StartRecord), s.status = .running → 6 ≤ rec.schemeId.toNat →
    ∃ t, exec (.start rec) s = .next t ∧ t.status = .refused (.unknownMappingScheme rec.schemeId) ∧
      (RefuseReason.unknownMappingScheme rec.schemeId).code = 1 ∧
      ∀ i, exec i t = .fault (.sessionRefused (.unknownMappingScheme rec.schemeId))

/-- START with a known id and a failing check sets REFUSED(InvalidConfiguration) with the name of the
first failing check, in the order region table, kind parameters, candidates (60_exceptions.md
R153, R158; the order inside a group is the model's, notes/assumptions/13.md). -/
def Obligations.FirstFailingCheckGivesTheReason : Prop :=
  ∀ (s : State) (rec : StartRecord) (k : Kind) (pre post : List (CheckName × Bool)) (c : CheckName),
    s.status = .running → kindOfId rec.schemeId = some k →
    tableChecks rec.cfg.regions ++ ((imageChecks rec.cfg ++ (kindChecks rec.cfg k ++ overlayChecks rec k)) ++
      candidateChecks rec.cfg) = pre ++ (c, false) :: post →
    (∀ p ∈ pre, p.2 = true) →
    ∃ t, exec (.start rec) s = .next t ∧ t.status = .refused (.invalidConfiguration c) ∧
      (RefuseReason.invalidConfiguration c).code = 2

/-- A refused START writes the status and its outputs and no other element (70_reset_and_hazards.md
R170; what the others then hold is notes/assumptions/14.md). -/
def Obligations.RefusedStartWritesTheStatusOnly : Prop :=
  ∀ (s t : State) (rec : StartRecord) (r : RefuseReason), exec (.start rec) s = .next t →
    t.status = .refused r →
    t = (((s.setStatus (.refused r)).setRecord rec).setOutput (.start (.refused r))).tick

/-- A START begins a new session: nothing of the session before it survives in the elements CORE holds
(70_reset_and_hazards.md R170, 60_exceptions.md R166; notes/assumptions/3.md). -/
def Obligations.StartForgetsTheSessionBefore : Prop :=
  ∀ (s u t t' : State) (rec : StartRecord), exec (.start rec) s = .next t → exec (.start rec) u = .next t' →
    t.status = .running →
    t' = { t with inputs := u.inputs, turn := u.turn + 1 }

/-- Each scheme-identifier row starts a session of its kind, with `bank` present but under FIXED and
`page` and CartRam, holding INIT_CARTRAM, under PAGED_RAM only (30_encoding.md R66, R67; the rest of
the record is the one last supplied, notes/assumptions/4.md; the form of the contents,
notes/assumptions/11.md). -/
def Obligations.SchemeRowsStartTheirKind : Prop :=
  ∀ s : State, s.status = .running →
    (LegalStart (declareScheme s.record 0) .fixed →
      ∃ t, exec .schemeFixed s = .next t ∧ t.status = .running ∧ t.controller = .fixed) ∧
    (LegalStart (declareScheme s.record 1) .wselAddr →
      ∃ t, exec .schemeWselAddr s = .next t ∧ t.status = .running ∧
        t.controller = .wselAddr (s.record.initBank % s.record.cfg.bankCount)) ∧
    (LegalStart (declareScheme s.record 2) .wselData →
      ∃ t, exec .schemeWselData s = .next t ∧ t.status = .running ∧
        t.controller = .wselData (s.record.initBank % s.record.cfg.bankCount)) ∧
    (LegalStart (declareScheme s.record 3) .hotspot →
      ∃ t, exec .schemeHotspot s = .next t ∧ t.status = .running ∧
        t.controller = .hotspot (s.record.initBank % s.record.cfg.bankCount)) ∧
    (LegalStart (declareScheme s.record 4) .snoop →
      ∃ t, exec .schemeSnoop s = .next t ∧ t.status = .running ∧
        t.controller = .snoop (s.record.initBank % s.record.cfg.bankCount)) ∧
    (LegalStart (declareScheme s.record 5) .pagedRam →
      ∃ t, exec .schemePagedRam s = .next t ∧ t.status = .running ∧
        t.controller = .pagedRam (s.record.initBank % s.record.cfg.bankCount)
          (s.record.initPage % s.record.cfg.ramPages)
          (Memory.load (s.record.cfg.ramPages * s.record.cfg.ramWindow) s.record.initCartRam))

/-- Each scheme-identifier row is the START of the record with the row's id, on every record: where a
check fails it refuses the session as that START does (60_exceptions.md R153), and where it runs every
element is set as START sets it (70_reset_and_hazards.md R170; the rest of the record,
notes/assumptions/4.md; the form of the contents, notes/assumptions/11.md). -/
def Obligations.SchemeRowsSetTheOtherElements : Prop :=
  (∀ (s : State) (i : Instr) (id : SchemeId) (k : Kind),
    (i, id, k) ∈ [(Instr.schemeFixed, 0#8, Kind.fixed), (.schemeWselAddr, 1#8, .wselAddr),
      (.schemeWselData, 2#8, .wselData), (.schemeHotspot, 3#8, .hotspot), (.schemeSnoop, 4#8, .snoop),
      (.schemePagedRam, 5#8, .pagedRam)] →
    exec i s = exec (.start (declareScheme s.record id)) s ∧
    (s.status = .running → ¬LegalStart (declareScheme s.record id) k →
      ∃ t c, exec i s = .next t ∧ t.status = .refused (.invalidConfiguration c) ∧
        t.output = .start (.refused (.invalidConfiguration c))) ∧
    ∀ t, exec i s = .next t → t.status = .running →
      t.controller = initialController (declareScheme s.record id) k ∧
      t.trace = s.record.initTrace ∧ t.geometry = s.record.cfg.defaultGeometry ∧ t.refusalMark = [] ∧
      t.cfg = sessionConfiguration s.record.cfg ∧ t.ioRam = Memory.load 128 s.record.initIoRam ∧
      t.record = declareScheme s.record id ∧ t.inputs = s.inputs ∧ t.output = .start .running) ∧
  ∀ (s : State) (id : SchemeId), exec (.schemeUnknown id) s = exec (.start (declareScheme s.record id)) s

/-- The row SCHEME_UNKNOWN refuses the session by name and records the id (60_exceptions.md R150, R152);
the other elements of R20 are as they were (notes/assumptions/14.md). -/
def Obligations.UnknownSchemeRowRefusesTheSession : Prop :=
  ∀ (s : State) (id : SchemeId), s.status = .running → 6 ≤ id.toNat →
    ∃ t, exec (.schemeUnknown id) s = .next t ∧ t.status = .refused (.unknownMappingScheme id) ∧
      t.output = .start (.refused (.unknownMappingScheme id)) ∧ t.cfg = s.cfg ∧
      t.controller = s.controller ∧ t.ioRam = s.ioRam ∧ t.trace = s.trace ∧ t.geometry = s.geometry ∧
      t.refusalMark = s.refusalMark ∧ t.inputs = s.inputs

/-! ### The bus cycles -/

/-- A descriptor of a reserved kind is refused by name: no element of 10_state.md R20 changes, no
collaborator is called, and the refusal mark is kept for the session (30_encoding.md R63,
60_exceptions.md R155). That the run goes on from there is notes/assumptions/1.md. -/
def Obligations.ReservedKindsOnlyLeaveTheMark : Prop :=
  ∀ (s : State) (a : Addr) (d : Byte) (i : Instr) (k : KindField),
    (i, k) ∈ [(Instr.reservedK011 a d, 0b011#3), (Instr.reservedK101 a d, 0b101#3),
      (Instr.reservedK110 a d, 0b110#3), (Instr.reservedK111 a d, 0b111#3)] →
    s.status = .running →
    exec i s = .next { s with
      refusalMark := descriptorOf k a d :: s.refusalMark
      output := .reservedCycleKind (descriptorOf k a d) }

/-- Inside a session a run leaves the modelled hardware exactly when a descriptor of a reserved kind
comes: from a RUNNING state with no refusal mark, the state after an input is again one unless the
input is of a reserved kind (60_exceptions.md R155). -/
def Obligations.OnlyReservedKindsLeaveTheHardware : Prop :=
  ∀ (s t : State) (i : Instr), s.Clean → startsSession i = false → exec i s = .next t →
    (t.Clean ↔ isReserved i = false)

/-- READ (40_bus_decoder.md R80, R81): the triggers run first, the owner's answer against the state they
leave is the result, and nothing else of CORE is written. -/
def Obligations.ReadTriggersThenAnswers : Prop :=
  ∀ (s : State) (a : Addr), s.status = .running →
    ∃ t, exec (.read a) s = .next t ∧ ReadAnswer (triggered s a false 0) a false t.output ∧
      t.controller = trigger s.cfg a false 0 s.controller ∧ t.ioRam = s.ioRam ∧ t.trace = s.trace ∧
      t.geometry = s.geometry ∧ SameSession s t

/-- FETCH (40_bus_decoder.md R80, R83; 10_state.md R29): as READ, and then the bus trace holds the
fetched byte with its address and, before it, what it held last. -/
def Obligations.FetchAnswersThenShiftsTheTrace : Prop :=
  ∀ (s : State) (a : Addr), s.status = .running →
    ∃ t b calls, exec (.fetch a) s = .next t ∧ ReadAnswer (triggered s a false 0) a false t.output ∧
      t.output = .read b calls ∧
      t.trace = { lastByte := b, lastAddr := a, prevByte := s.trace.lastByte, prevAddr := s.trace.lastAddr } ∧
      t.controller = trigger s.cfg a false 0 s.controller ∧ t.ioRam = s.ioRam ∧
      t.geometry = s.geometry ∧ SameSession s t

/-- PEEK (40_bus_decoder.md R85): the answer with side effects disabled, and no element of the state
changes. -/
def Obligations.PeekAnswersAndChangesNothing : Prop :=
  ∀ (s : State) (a : Addr), s.status = .running →
    ∃ t, exec (.peek a) s = .next t ∧ ReadAnswer s a true t.output ∧ t = s.setOutput t.output

/-- PEEKs with no other input between them return the same byte: after any number of PEEKs of any
addresses, a PEEK returns what it returned before them (40_bus_decoder.md R85). -/
def Obligations.PeeksAreRepeatable : Prop :=
  ∀ (s t : State) (a : Addr) (as : List Addr), s.status = .running → exec (.peek a) s = .next t →
    core.run (as.length + 1) (s.setInputs (as.map (fun b => encode (.peek b)) ++ [encode (.peek a)])) =
      .next (t.setInputs [])

/-- A READ that fires no trigger returns the byte a PEEK returns, wherever no chip's own answer is in
play: an address of IORAM or of the cartridge window (40_bus_decoder.md R85). -/
def Obligations.PeekReturnsWhatAReadWould : Prop :=
  ∀ (s t u : State) (a : Addr) (w : Owner) (o : Nat), matchRegion s.cfg.regions a = some (w, o) →
    w = .ioram ∨ w = .cart → trigger s.cfg a false 0 s.controller = s.controller →
    exec (.read a) s = .next t → exec (.peek a) s = .next u → t.output = u.output

/-- WRITE (40_bus_decoder.md R80, R82): the triggers run first, then the owner takes the byte; no
result byte; every other byte and element is as it was. -/
def Obligations.WriteTriggersThenStores : Prop :=
  ∀ (s : State) (a : Addr) (d : Byte), s.Consistent → s.status = .running →
    ∃ t, exec (.write a d) s = .next t ∧ t.trace = s.trace ∧ t.geometry = s.geometry ∧ SameSession s t ∧
      (matchRegion s.cfg.regions a = none →
        t.controller = trigger s.cfg a true d s.controller ∧ t.ioRam = s.ioRam ∧ t.output = .write []) ∧
      (∀ o, matchRegion s.cfg.regions a = some (.video, o) →
        t.controller = trigger s.cfg a true d s.controller ∧ t.ioRam = s.ioRam ∧
          t.output = .write [.videoWrite o d]) ∧
      (∀ o, matchRegion s.cfg.regions a = some (.ioreg, o) →
        t.controller = trigger s.cfg a true d s.controller ∧ t.ioRam = s.ioRam ∧
          t.output = .write [.ioWrite o d]) ∧
      (∀ o, matchRegion s.cfg.regions a = some (.ioram, o) →
        t.controller = trigger s.cfg a true d s.controller ∧ t.output = .write [] ∧
          Memory.read t.ioRam o = d ∧ ∀ j, j ≠ o → Memory.read t.ioRam j = Memory.read s.ioRam j) ∧
      (∀ o, matchRegion s.cfg.regions a = some (.cart, o) → t.ioRam = s.ioRam ∧ t.output = .write [] ∧
        t.controller = cartWrite s.cfg o d (trigger s.cfg a true d s.controller))

/-- At an unclaimed address a READ, FETCH or PEEK returns the open-bus value and a WRITE is discarded;
the triggers still run, and nothing is recorded (40_bus_decoder.md R84). -/
def Obligations.UnclaimedReadsFloatAndWritesVanish : Prop :=
  ∀ (s : State) (a : Addr) (d : Byte), s.status = .running → matchRegion s.cfg.regions a = none →
    (∀ i, i = .read a ∨ i = .fetch a → ∃ t, exec i s = .next t ∧
      t.output = .read (openBus (triggered s a false 0) a).1 (openBus (triggered s a false 0) a).2 ∧
      t.controller = trigger s.cfg a false 0 s.controller ∧ SameSession s t) ∧
    (∃ t, exec (.peek a) s = .next t ∧ t.output = .read (openBus s a).1 (openBus s a).2 ∧
      t.controller = s.controller ∧ SameSession s t) ∧
    exec (.write a d) s = .next (((s.setController (trigger s.cfg a true d s.controller)).setOutput
      (.write [])).tick)

/-- The bank-switch logic acts on an address another component owns, and the owner's read or write runs
as well: under SNOOP a write the video chip owns selects a bank and reaches the chip, and a read the
I/O RAM owns selects a bank and returns that RAM's byte (40_bus_decoder.md R86). -/
def Obligations.SnoopedCyclesReachTheirOwner : Prop :=
  ∀ (s : State) (a : Addr) (d : Byte) (b o : Nat), s.status = .running → s.controller = .snoop b →
    a.toNat &&& s.cfg.snoopMask = s.cfg.snoopMatch →
    (matchRegion s.cfg.regions a = some (.video, o) →
      ∃ t, exec (.write a d) s = .next t ∧ t.output = .write [.videoWrite o d] ∧
        t.controller = .snoop (((a.toNat >>> s.cfg.snoopShift) &&& s.cfg.snoopSelect) % s.cfg.bankCount)) ∧
    (matchRegion s.cfg.regions a = some (.ioram, o) →
      ∃ t, exec (.read a) s = .next t ∧ t.output = .read (Memory.read s.ioRam o) [] ∧
        t.controller = .snoop (((a.toNat >>> s.cfg.snoopShift) &&& s.cfg.snoopSelect) % s.cfg.bankCount))

/-- A byte written to SharedIoRam through one mirror is what a READ, a FETCH or a PEEK through any
mirror returns from the next cycle on, whatever inputs of the session come between, until the byte
is written again (10_state.md R28). -/
def Obligations.SharedIoRamReturnsTheLastWrite : Prop :=
  ∀ (s t u : State) (a b : Addr) (d : Byte) (o : Nat) (is : List Instr), s.Consistent →
    matchRegion s.cfg.regions a = some (.ioram, o) → matchRegion s.cfg.regions b = some (.ioram, o) →
    exec (.write a d) s = .next t → execAll is t = .next u →
    (∀ i ∈ is, startsSession i = false ∧
      ∀ c e, i = .write c e → matchRegion s.cfg.regions c ≠ some (.ioram, o)) →
    ∀ i, i = .read b ∨ i = .fetch b ∨ i = .peek b → ∃ v, exec i u = .next v ∧ v.output = .read d []

/-- The configuration, the ROM image and the scheme kind are changed by no bus cycle and no VSYNC event
(10_state.md R33, 20_memory.md R55, 41_bank_switch.md R100). -/
def Obligations.OnlySessionStartChangesTheConfiguration : Prop :=
  ∀ (s t : State) (i : Instr), startsSession i = false → exec i s = .next t →
    t.cfg = s.cfg ∧ t.controller.kind = s.controller.kind ∧ t.status = s.status

/-- Only a FETCH or a session start changes the bus trace, only a WRITE or a session start an IoRam
byte, only a WRITE or a session start a page or an overlay byte (10_state.md R25, R28, R29, R30). -/
def Obligations.WhoMayChangeWhat : Prop :=
  ∀ (s t : State) (i : Instr), startsSession i = false → exec i s = .next t →
    ((∀ a, i ≠ .fetch a) → t.trace = s.trace) ∧
    ((∀ a d, i ≠ .write a d) → t.ioRam = s.ioRam ∧
      ∀ b p m, s.controller = .pagedRam b p m → ∃ b', t.controller = .pagedRam b' p m) ∧
    ((∀ n, i ≠ .vsync n) → t.geometry = s.geometry)

/-! ### The bank-switch controller -/

/-- FIXED (41_bank_switch.md R105): no READ, WRITE, FETCH or PEEK changes the controller, a window read returns
bank 0's byte at `o mod BANK_SIZE`, and a window write is discarded. -/
def Obligations.FixedShowsBankZero : Prop :=
  ∀ (s : State) (a : Addr) (d : Byte), s.status = .running → s.controller = .fixed →
    (∀ i, i = .read a ∨ i = .write a d ∨ i = .fetch a ∨ i = .peek a →
      ∃ t, exec i s = .next t ∧ t.controller = .fixed) ∧
    ∀ o, matchRegion s.cfg.regions a = some (.cart, o) →
      (∀ i, i = .read a ∨ i = .fetch a ∨ i = .peek a → ∃ t, exec i s = .next t ∧
        t.output = .read (Memory.read s.cfg.rom (o % s.cfg.bankSize)) []) ∧
      exec (.write a d) s = .next ((s.setOutput (.write [])).tick)

/-- WSEL_ADDR (41_bank_switch.md R106): a WRITE in the window selects the bank by its offset and its data
goes nowhere, one outside the window selects nothing, and no other cycle selects; a window read
returns the selected bank's byte. -/
def Obligations.WselAddrSelectsByTheAddress : Prop :=
  ∀ (s : State) (a : Addr) (d : Byte) (b : Nat), s.status = .running → s.controller = .wselAddr b →
    (∃ t, exec (.write a d) s = .next t ∧
      t.controller = .wselAddr (if inCart s.cfg a then (windowOffset s.cfg a &&& selectMask s.cfg) % s.cfg.bankCount
        else b) ∧
      ∀ o, matchRegion s.cfg.regions a = some (.cart, o) → t.ioRam = s.ioRam ∧ t.output = .write []) ∧
    ∀ i, i = .read a ∨ i = .fetch a ∨ i = .peek a → ∃ t, exec i s = .next t ∧ t.controller = .wselAddr b ∧
      ∀ o, matchRegion s.cfg.regions a = some (.cart, o) →
        t.output = .read (Memory.read s.cfg.rom (b * s.cfg.bankSize + o % s.cfg.bankSize)) []

/-- WSEL_DATA (41_bank_switch.md R107): a WRITE in the window selects the bank by its data, one outside
the window selects nothing, and no other cycle selects; a window read returns the selected bank's
byte, and a window write stores nothing. -/
def Obligations.WselDataSelectsByTheData : Prop :=
  ∀ (s : State) (a : Addr) (d : Byte) (b : Nat), s.status = .running → s.controller = .wselData b →
    (∃ t, exec (.write a d) s = .next t ∧
      t.controller = .wselData (if inCart s.cfg a then (d.toNat &&& selectMask s.cfg) % s.cfg.bankCount else b) ∧
      ∀ o, matchRegion s.cfg.regions a = some (.cart, o) → t.ioRam = s.ioRam ∧ t.output = .write []) ∧
    ∀ i, i = .read a ∨ i = .fetch a ∨ i = .peek a → ∃ t, exec i s = .next t ∧ t.controller = .wselData b ∧
      ∀ o, matchRegion s.cfg.regions a = some (.cart, o) →
        t.output = .read (Memory.read s.cfg.rom (b * s.cfg.bankSize + o % s.cfg.bankSize)) []

/-- HOTSPOT (41_bank_switch.md R109, R111): a READ or FETCH at the address of a pair selects its bank, a
WRITE does so when HOTSPOT_ON_WRITE holds, a PEEK never, and no other address does. A read's data
are the owner's against the bank the cycle leaves selected, in the window that bank's byte, at a
hotspot, elsewhere and on a PEEK alike (R103). -/
def Obligations.HotspotsSelectByAccess : Prop :=
  ∀ (s : State) (a : Addr) (d : Byte) (b : Nat), s.status = .running → s.controller = .hotspot b →
    (∀ pre h post, s.cfg.hotspots = pre ++ h :: post → (∀ g ∈ pre, g.addr ≠ a.toNat) → h.addr = a.toNat →
      (∀ i, i = .read a ∨ i = .fetch a → ∃ t, exec i s = .next t ∧
        t.controller = .hotspot (h.bank % s.cfg.bankCount) ∧
        ReadAnswer (s.setController t.controller) a false t.output ∧
        ∀ o, matchRegion s.cfg.regions a = some (.cart, o) → t.output =
          .read (Memory.read s.cfg.rom (h.bank % s.cfg.bankCount * s.cfg.bankSize + o % s.cfg.bankSize)) []) ∧
      ∃ t, exec (.write a d) s = .next t ∧
        t.controller = .hotspot (if s.cfg.hotspotOnWrite then h.bank % s.cfg.bankCount else b)) ∧
    ((∀ g ∈ s.cfg.hotspots, g.addr ≠ a.toNat) →
      (∀ i, i = .read a ∨ i = .fetch a → ∃ t, exec i s = .next t ∧ t.controller = .hotspot b ∧
        ReadAnswer s a false t.output ∧
        ∀ o, matchRegion s.cfg.regions a = some (.cart, o) →
          t.output = .read (Memory.read s.cfg.rom (b * s.cfg.bankSize + o % s.cfg.bankSize)) []) ∧
      ∃ t, exec (.write a d) s = .next t ∧ t.controller = .hotspot b) ∧
    ∃ t, exec (.peek a) s = .next t ∧ t.controller = .hotspot b ∧ ReadAnswer s a true t.output ∧
      ∀ o, matchRegion s.cfg.regions a = some (.cart, o) →
        t.output = .read (Memory.read s.cfg.rom (b * s.cfg.bankSize + o % s.cfg.bankSize)) []

/-- SNOOP (41_bank_switch.md R112): a READ, WRITE or FETCH at a matching address selects the bank from the
address, whoever owns it; at another address, and on a PEEK, nothing changes. A read returns the
owner's data, in the window the byte of the bank the cycle leaves selected (R103), and a write
reaches the owner: the video chip, the I/O chip or SharedIoRam, and nobody in the window and at an
unclaimed address. -/
def Obligations.SnoopSelectsOnEveryMatchingCycle : Prop :=
  ∀ (s : State) (a : Addr) (d : Byte) (b : Nat), s.status = .running → s.controller = .snoop b →
    (∀ i, i = .read a ∨ i = .fetch a ∨ i = .write a d → ∃ t, exec i s = .next t ∧
      t.controller = .snoop (if a.toNat &&& s.cfg.snoopMask = s.cfg.snoopMatch
        then ((a.toNat >>> s.cfg.snoopShift) &&& s.cfg.snoopSelect) % s.cfg.bankCount else b) ∧
      (i ≠ .write a d → ReadAnswer (s.setController t.controller) a false t.output ∧ t.ioRam = s.ioRam ∧
        ∀ o, matchRegion s.cfg.regions a = some (.cart, o) → t.output =
          .read (Memory.read s.cfg.rom (t.controller.curBank * s.cfg.bankSize + o % s.cfg.bankSize)) []) ∧
      (i = .write a d →
        (∀ o, matchRegion s.cfg.regions a = some (.video, o) →
          t.output = .write [.videoWrite o d] ∧ t.ioRam = s.ioRam) ∧
        (∀ o, matchRegion s.cfg.regions a = some (.ioreg, o) →
          t.output = .write [.ioWrite o d] ∧ t.ioRam = s.ioRam) ∧
        (∀ o, matchRegion s.cfg.regions a = some (.ioram, o) → t.output = .write [] ∧
          (Memory.wf s.ioRam = true → Memory.read t.ioRam o = d) ∧
          ∀ j, j ≠ o → Memory.read t.ioRam j = Memory.read s.ioRam j) ∧
        (∀ o, matchRegion s.cfg.regions a = some (.cart, o) → t.output = .write [] ∧ t.ioRam = s.ioRam) ∧
        (matchRegion s.cfg.regions a = none → t.output = .write [] ∧ t.ioRam = s.ioRam))) ∧
    ∃ t, exec (.peek a) s = .next t ∧ t.controller = .snoop b ∧ ReadAnswer s a true t.output ∧
      ∀ o, matchRegion s.cfg.regions a = some (.cart, o) →
        t.output = .read (Memory.read s.cfg.rom (b * s.cfg.bankSize + o % s.cfg.bankSize)) []

/-- Under SNOOP an address and the one that differs in A12 fire the same trigger and select the same
bank, on every kind of cycle but PEEK (41_bank_switch.md R113). -/
def Obligations.SnoopIgnoresA12 : Prop :=
  ∀ (s t u : State) (a : Addr) (d : Byte) (b : Nat), s.Consistent → s.controller = .snoop b →
    ((exec (.read a) s = .next t ∧ exec (.read (a ^^^ 0x1000)) s = .next u) ∨
      (exec (.fetch a) s = .next t ∧ exec (.fetch (a ^^^ 0x1000)) s = .next u) ∨
      (exec (.write a d) s = .next t ∧ exec (.write (a ^^^ 0x1000) d) s = .next u)) →
    t.controller = u.controller

/-- PAGED_RAM (41_bank_switch.md R115, R116): a WRITE at PAGE_REG_ADDR sets the page to its data mod
RAM_PAGES, whoever owns the address, no other cycle changes the page, and the bank is selected as
under HOTSPOT; a read there returns what the address's owner returns. -/
def Obligations.PageRegisterTakesTheData : Prop :=
  ∀ (s : State) (a : Addr) (d : Byte) (b p : Nat) (m : Memory), s.status = .running →
    s.controller = .pagedRam b p m →
    (∃ t b' m', exec (.write a d) s = .next t ∧
      t.controller = .pagedRam b' (if a.toNat = s.cfg.pageRegAddr then d.toNat % s.cfg.ramPages else p) m' ∧
      ∃ u, exec (.write a d) (s.setController (.hotspot b)) = .next u ∧ u.controller = .hotspot b') ∧
    (∀ i, i = .read a ∨ i = .fetch a → ∃ t b', exec i s = .next t ∧ t.controller = .pagedRam b' p m ∧
      ReadAnswer (s.setController t.controller) a false t.output ∧
      ∃ u, exec i (s.setController (.hotspot b)) = .next u ∧ u.controller = .hotspot b') ∧
    ∃ t, exec (.peek a) s = .next t ∧ t.controller = .pagedRam b p m ∧ ReadAnswer s a true t.output

/-- PAGED_RAM, the overlay (41_bank_switch.md R117): a window write at an overlay offset stores the byte
in the page the cycle leaves selected and changes no other overlay byte, and a window read there
returns the page's byte. At every other window offset a write changes no overlay byte, and a read
returns the ROM byte of the bank the cycle's own trigger left selected, at `o mod BANK_SIZE`. -/
def Obligations.OverlayReadsAndWritesThePage : Prop :=
  ∀ (s : State) (a : Addr) (d : Byte) (b p o : Nat) (m : Memory), s.Consistent → s.status = .running →
    s.controller = .pagedRam b p m → matchRegion s.cfg.regions a = some (.cart, o) →
    (s.cfg.ramBase ≤ o ∧ o < s.cfg.ramBase + s.cfg.ramWindow →
      (∃ t b' p' m', exec (.write a d) s = .next t ∧ t.controller = .pagedRam b' p' m' ∧
        p' = (if a.toNat = s.cfg.pageRegAddr then d.toNat % s.cfg.ramPages else p) ∧
        Memory.read m' (p' * s.cfg.ramWindow + (o - s.cfg.ramBase)) = d ∧
        ∀ j, j ≠ p' * s.cfg.ramWindow + (o - s.cfg.ramBase) → Memory.read m' j = Memory.read m j) ∧
      ∀ i, i = .read a ∨ i = .fetch a ∨ i = .peek a → ∃ t, exec i s = .next t ∧
        t.output = .read (Memory.read m (p * s.cfg.ramWindow + (o - s.cfg.ramBase))) []) ∧
    (¬(s.cfg.ramBase ≤ o ∧ o < s.cfg.ramBase + s.cfg.ramWindow) →
      (∃ t b' p', exec (.write a d) s = .next t ∧ t.controller = .pagedRam b' p' m) ∧
      (∀ i, i = .read a ∨ i = .fetch a → ∃ t, exec i s = .next t ∧ t.output =
        .read (Memory.read s.cfg.rom (t.controller.curBank * s.cfg.bankSize + o % s.cfg.bankSize)) []) ∧
      ∃ t, exec (.peek a) s = .next t ∧ t.output =
        .read (Memory.read s.cfg.rom (b * s.cfg.bankSize + o % s.cfg.bankSize)) [])

/-- After a write that selects bank `b` under a write-select scheme, a read anywhere in the window
returns bank `b`'s byte at the corresponding offset (41_bank_switch.md R118). -/
def Obligations.ReadAfterSelectingWriteSeesTheBank : Prop :=
  ∀ (s t : State) (a c : Addr) (d : Byte) (o b : Nat), inCart s.cfg a = true →
    (∃ x, s.controller = .wselAddr x ∧ b = (windowOffset s.cfg a &&& selectMask s.cfg) % s.cfg.bankCount) ∨
      (∃ x, s.controller = .wselData x ∧ b = (d.toNat &&& selectMask s.cfg) % s.cfg.bankCount) →
    exec (.write a d) s = .next t → matchRegion s.cfg.regions c = some (.cart, o) →
    ∃ u, exec (.read c) t = .next u ∧
      u.output = .read (Memory.read s.cfg.rom (b * s.cfg.bankSize + o % s.cfg.bankSize)) []

/-- SELECT_MASK defaults to one less than the least power of two at or above BANK_COUNT, so to 0x3 with
4 banks (41_bank_switch.md R108). -/
def Obligations.DefaultSelectMaskNamesEveryBank : Prop :=
  ∀ cfg : Configuration, cfg.selectMask = none → 1 ≤ cfg.bankCount →
    (∃ k, selectMask cfg = 2 ^ k - 1 ∧ cfg.bankCount ≤ 2 ^ k ∧ ∀ j, cfg.bankCount ≤ 2 ^ j → 2 ^ k ≤ 2 ^ j) ∧
    (cfg.bankCount = 4 → selectMask cfg = 0x3)

/-- The pseudo-operations (30_encoding.md R73): `SEL b` under HOTSPOT or PAGED_RAM reads a hotspot of bank
`b` and so selects it, and `WSEL b` under WSEL_ADDR writes to the window's `b`-th address. -/
def Obligations.PseudoOperationsSelectTheirBank : Prop :=
  (∀ (s : State) (b x : Nat) (i : Instr), s.Consistent → s.status = .running → s.controller = .hotspot x →
    pseudoSel s.cfg b = some i → ∃ t, exec i s = .next t ∧ t.controller = .hotspot (b % s.cfg.bankCount)) ∧
  (∀ (s : State) (b x p : Nat) (m : Memory) (i : Instr), s.Consistent → s.status = .running →
    s.controller = .pagedRam x p m → pseudoSel s.cfg b = some i →
    ∃ t, exec i s = .next t ∧ t.controller = .pagedRam (b % s.cfg.bankCount) p m) ∧
  ∀ (s : State) (b x : Nat) (i : Instr), s.Consistent → s.status = .running → s.controller = .wselAddr x →
    pseudoWsel s.cfg b = some i → b < cartSize s.cfg.regions →
    ∃ t, exec i s = .next t ∧ t.controller = .wselAddr ((b &&& selectMask s.cfg) % s.cfg.bankCount)

/-! ### The open-bus resolver -/

/-- The open-bus value, at every address and in every state, is that of the four steps and the variant
of step 3 (42_open_bus.md R130 to R135). It is the result of a READ, FETCH or PEEK at an unclaimed
address, and the byte a VIDEO read of any of the three hands the chip (40_bus_decoder.md R84, R89):
from the trace before the cycle, against the bank the cycle's own trigger left. -/
def Obligations.OpenBusFollowsTheFourSteps : Prop :=
  (∀ (s : State) (a : Addr),
    (undriven s.cfg s.trace.lastAddr = false → openBus s a = (a.extractLsb' 0 8, [])) ∧
    (undriven s.cfg s.trace.lastAddr = true →
      (s.trace.lastByte.toNat < s.cfg.obThreshold ∨ s.trace.lastByte = 0xFF →
        openBus s a = (s.trace.lastByte, [])) ∧
      (¬(s.trace.lastByte.toNat < s.cfg.obThreshold ∨ s.trace.lastByte = 0xFF) →
        (s.cfg.obCheckPrevAddr = true ∧ undriven s.cfg s.trace.prevAddr = false →
          openBus s a = (s.trace.lastByte, [])) ∧
        (¬(s.cfg.obCheckPrevAddr = true ∧ undriven s.cfg s.trace.prevAddr = false) →
          (s.trace.prevByte = s.cfg.obIndirectOpcode →
            PeekAnswer s (s.trace.lastByte.setWidth 13 + 1) (openBus s a).1 (openBus s a).2) ∧
          (s.trace.prevByte ≠ s.cfg.obIndirectOpcode → openBus s a = (s.trace.lastByte, [])))))) ∧
  ∀ (s u : State) (a : Addr) (i : Instr) (sed : Bool), s.status = .running →
    (i, sed, u) ∈ [(Instr.read a, false, s.setController (trigger s.cfg a false 0 s.controller)),
      (.fetch a, false, s.setController (trigger s.cfg a false 0 s.controller)), (.peek a, true, s)] →
    (matchRegion s.cfg.regions a = none →
      ∃ t, exec i s = .next t ∧ t.output = .read (openBus u a).1 (openBus u a).2) ∧
    ∀ o, matchRegion s.cfg.regions a = some (.video, o) →
      ∃ t v, exec i s = .next t ∧ t.output = .read v ((openBus u a).2 ++ [.videoRead o (openBus u a).1 sed v])

/-- The reference OB_UNDRIVEN is `(x & 0x1080) != 0` (42_open_bus.md R131; a reference value, and a
representation of the model's, notes/assumptions/10.md). -/
def Obligations.ReferenceUndrivenIsBits12And7 : Prop :=
  ∀ a : Addr, undriven referenceConfiguration a = true ↔ a &&& 0x1080 ≠ 0

/-- Under the reference region table and open-bus parameters, whatever the image, the kind and the other
parameters are, the step-3 byte is `IoRam[lastByte + 1 - 0x80]`, and so the open-bus value, and with it
an unclaimed read, is a function of the trace and IoRam alone (42_open_bus.md R134, R136). -/
def Obligations.ReferenceOpenBusIsPureInTraceAndIoRam : Prop :=
  (∀ (s : State) (a : Addr), HasReferenceOpenBus s.cfg → undriven s.cfg s.trace.lastAddr = true →
    0x80 ≤ s.trace.lastByte.toNat → s.trace.lastByte ≠ 0xFF → s.trace.prevByte = 0xB1 →
    openBus s a = (Memory.read s.ioRam (s.trace.lastByte.toNat + 1 - 0x80), [])) ∧
  ∀ (s u : State) (a : Addr), HasReferenceOpenBus s.cfg → HasReferenceOpenBus u.cfg →
    s.trace = u.trace → s.ioRam = u.ioRam →
    openBus s a = openBus u a ∧
    ∀ (i : Instr) (t t' : State), i = .read a ∨ i = .fetch a ∨ i = .peek a →
      matchRegion referenceRegions a = none → exec i s = .next t → exec i u = .next t' → t.output = t'.output

/-! ### The display-timing classifier -/

/-- VSYNC (43_display_timing.md R141, R142, R143): a candidate matches when it is within 3 lines; the
nearest wins, the smaller among equals; it is committed when it differs from the geometry; with no
match nothing changes. -/
def Obligations.VsyncCommitsTheNearestCandidate : Prop :=
  ∀ (s : State) (n : Lines), s.status = .running →
    ∃ t, exec (.vsync n) s = .next t ∧
      ((∀ c ∈ s.cfg.dtCandidates, 3 < ((n.toNat : Int) - (c.toNat : Int)).natAbs) →
        t.geometry = s.geometry ∧ t.output = .vsync false) ∧
      ∀ best ∈ s.cfg.dtCandidates, ((n.toNat : Int) - (best.toNat : Int)).natAbs ≤ 3 →
        (∀ c ∈ s.cfg.dtCandidates,
          ((n.toNat : Int) - (best.toNat : Int)).natAbs < ((n.toNat : Int) - (c.toNat : Int)).natAbs ∨
          ((n.toNat : Int) - (best.toNat : Int)).natAbs = ((n.toNat : Int) - (c.toNat : Int)).natAbs ∧
            best.toNat ≤ c.toNat) →
        t.geometry = best ∧ (best ≠ s.geometry → t.output = .vsync true) ∧
          (best = s.geometry → t.output = .vsync false)

/-- VSYNC writes the geometry and its output and nothing else, and what it makes of them depends on
nothing but the candidates and the geometry; no bus cycle changes the geometry, and none of its
results or effects depends on it (43_display_timing.md R145). -/
def Obligations.DisplayAndBusAreIndependent : Prop :=
  (∀ (s t : State) (n : Lines), exec (.vsync n) s = .next t →
    SameSession s t ∧ t.controller = s.controller ∧ t.ioRam = s.ioRam ∧ t.trace = s.trace) ∧
  (∀ (s u t t' : State) (n : Lines), s.cfg.dtCandidates = u.cfg.dtCandidates → s.geometry = u.geometry →
    exec (.vsync n) s = .next t → exec (.vsync n) u = .next t' →
    t.geometry = t'.geometry ∧ t.output = t'.output) ∧
  ∀ (s t : State) (g : Lines) (i : Instr), isBusCycle i = true → exec i s = .next t →
    t.geometry = s.geometry ∧ exec i (s.setGeometry g) = .next (t.setGeometry g)

/-- Pulses all within 3 of 262 commit exactly once from another geometry and never from 262, and the
geometry after them is 262; a pulse of 500 leaves the geometry. All under the reference candidates
(43_display_timing.md R146). -/
def Obligations.PulsesNear262CommitOnce : Prop :=
  ∀ (s : State) (ns : List Lines), s.status = .running → s.cfg.dtCandidates = [262, 312, 328, 342] →
    (∀ n ∈ ns, 259 ≤ n.toNat ∧ n.toNat ≤ 265) →
    (ns ≠ [] → s.geometry ≠ 262 → commitCount ns s = 1) ∧
    (s.geometry = 262 → commitCount ns s = 0) ∧
    (ns ≠ [] → ∃ t, execAll (ns.map .vsync) s = .next t ∧ t.geometry = 262) ∧
    ∃ t, exec (.vsync 500) s = .next t ∧ t.geometry = s.geometry ∧ t.output = .vsync false
end

