-- ==== Sys2Proof/Laws/Memory.lean ====
section
/-! SUPPORT. The laws of the byte memories: read after write, the canonical form, the bound on the
indices, and loading. -/

namespace Sys2Proof.Machine

theorem Memory.wfFrom_mono {lo lo' : Nat} {m : Memory} (h : lo' ≤ lo) (hm : Memory.wfFrom lo m = true) :
    Memory.wfFrom lo' m = true := by
  cases m with
  | nil => rfl
  | cons c m =>
    obtain ⟨k, v⟩ := c
    simp only [Memory.wfFrom, Bool.and_eq_true, decide_eq_true_eq] at hm ⊢
    exact ⟨Nat.le_trans h hm.1, hm.2⟩

/-- A canonical memory lists nothing below its lowest index. -/
theorem Memory.read_below {lo i : Nat} {m : Memory} (hm : Memory.wfFrom lo m = true) (hi : i < lo) :
    Memory.read m i = Memory.unlisted := by
  induction m generalizing lo with
  | nil => rfl
  | cons c m ih =>
    obtain ⟨k, v⟩ := c
    simp only [Memory.wfFrom, Bool.and_eq_true, decide_eq_true_eq] at hm
    rw [Memory.read, if_neg (by omega)]
    exact ih hm.2.2 (by omega)

theorem Memory.read_write_same_from {lo : Nat} {m : Memory} (hm : Memory.wfFrom lo m = true) (i : Nat)
    (v : Byte) : Memory.read (Memory.write m i v) i = v := by
  induction m generalizing lo with
  | nil =>
    rw [Memory.write]
    split
    · next h => rw [h]; rfl
    · simp [Memory.read]
  | cons c m ih =>
    obtain ⟨k, u⟩ := c
    simp only [Memory.wfFrom, Bool.and_eq_true, decide_eq_true_eq] at hm
    rw [Memory.write]
    split
    · next hlt =>
      split
      · next hv =>
        rw [Memory.read, if_neg (by omega), hv]
        exact Memory.read_below hm.2.2 (by omega)
      · simp [Memory.read]
    · split
      · next hik =>
        split
        · next hv =>
          rw [hv]
          exact Memory.read_below hm.2.2 (by omega)
        · simp [Memory.read]
      · next hlt hik =>
        rw [Memory.read, if_neg (by omega)]
        exact ih hm.2.2

/-- Reading the index just written gives the byte written. -/
theorem Memory.read_write_same {m : Memory} (hm : Memory.wf m = true) (i : Nat) (v : Byte) :
    Memory.read (Memory.write m i v) i = v :=
  Memory.read_write_same_from hm i v

/-- A write leaves every other index alone. -/
theorem Memory.read_write_other (m : Memory) {i j : Nat} (h : j ≠ i) (v : Byte) :
    Memory.read (Memory.write m i v) j = Memory.read m j := by
  have h' : i ≠ j := fun e => h e.symm
  induction m with
  | nil =>
    rw [Memory.write]
    split <;> simp [Memory.read, h']
  | cons c m ih =>
    obtain ⟨k, u⟩ := c
    rw [Memory.write]
    split
    · split <;> simp [Memory.read, h']
    · split
      · next hik =>
        subst hik
        split <;> simp [Memory.read, h']
      · simp only [Memory.read, ih]

theorem Memory.write_wfFrom {lo : Nat} {m : Memory} (hm : Memory.wfFrom lo m = true) {i : Nat} (hi : lo ≤ i)
    (v : Byte) : Memory.wfFrom lo (Memory.write m i v) = true := by
  induction m generalizing lo with
  | nil =>
    rw [Memory.write]
    split
    · rfl
    · next hv => simp [Memory.wfFrom, hi, hv]
  | cons c m ih =>
    obtain ⟨k, u⟩ := c
    have hm' := hm
    simp only [Memory.wfFrom, Bool.and_eq_true, decide_eq_true_eq] at hm
    rw [Memory.write]
    split
    · split
      · exact hm'
      · next hlt hv =>
        simp only [Memory.wfFrom, Bool.and_eq_true, decide_eq_true_eq]
        exact ⟨hi, hv, by omega, hm.2.1, hm.2.2⟩
    · split
      · next hik =>
        subst hik
        split
        · exact Memory.wfFrom_mono (by omega) hm.2.2
        · next hv =>
          simp only [Memory.wfFrom, Bool.and_eq_true, decide_eq_true_eq]
          exact ⟨hm.1, hv, hm.2.2⟩
      · simp only [Memory.wfFrom, Bool.and_eq_true, decide_eq_true_eq]
        exact ⟨hm.1, hm.2.1, ih hm.2.2 (by omega)⟩

/-- A write keeps the canonical form. -/
theorem Memory.write_wf {m : Memory} (hm : Memory.wf m = true) (i : Nat) (v : Byte) :
    Memory.wf (Memory.write m i v) = true :=
  Memory.write_wfFrom hm (Nat.zero_le i) v

theorem Memory.within_cons {n k : Nat} {v : Byte} {m : Memory} :
    Memory.within n ((k, v) :: m) = true ↔ k < n ∧ Memory.within n m = true := by
  simp [Memory.within]

/-- A write below the size keeps every index below the size. -/
theorem Memory.write_within {n : Nat} {m : Memory} (hm : Memory.within n m = true) {i : Nat} (hi : i < n)
    (v : Byte) : Memory.within n (Memory.write m i v) = true := by
  induction m with
  | nil =>
    rw [Memory.write]
    split
    · exact hm
    · exact Memory.within_cons.mpr ⟨hi, hm⟩
  | cons c m ih =>
    obtain ⟨k, u⟩ := c
    have hc := Memory.within_cons.mp hm
    rw [Memory.write]
    split
    · split
      · exact hm
      · exact Memory.within_cons.mpr ⟨hi, hm⟩
    · split
      · split
        · exact hc.2
        · exact Memory.within_cons.mpr ⟨hi, hc.2⟩
      · exact Memory.within_cons.mpr ⟨hc.1, ih hc.2⟩

theorem Memory.loadFold_keeps (n : Nat) (cells : List Host.Cell) (m : Memory) (hw : Memory.wf m = true)
    (hb : Memory.within n m = true) :
    Memory.wf (cells.foldl (fun m c => if c.1 < n then Memory.write m c.1 c.2 else m) m) = true ∧
    Memory.within n (cells.foldl (fun m c => if c.1 < n then Memory.write m c.1 c.2 else m) m) = true := by
  induction cells generalizing m with
  | nil => exact ⟨hw, hb⟩
  | cons c cells ih =>
    rw [List.foldl_cons]
    split
    · next h => exact ih _ (Memory.write_wf hw _ _) (Memory.write_within hb h _)
    · exact ih _ hw hb

/-- A loaded memory is canonical. -/
theorem Memory.load_wf (n : Nat) (cells : List Host.Cell) : Memory.wf (Memory.load n cells) = true :=
  (Memory.loadFold_keeps n cells [] rfl rfl).1

/-- A loaded memory is of its size. -/
theorem Memory.load_within (n : Nat) (cells : List Host.Cell) :
    Memory.within n (Memory.load n cells) = true :=
  (Memory.loadFold_keeps n cells [] rfl rfl).2

/-- Writing a listed byte above every listed index appends its cell. -/
theorem Memory.write_append {m : Memory} {i : Nat} {v : Byte} (hm : ∀ c ∈ m, c.1 < i)
    (hv : v ≠ Memory.unlisted) : Memory.write m i v = m ++ [(i, v)] := by
  induction m with
  | nil => simp [Memory.write, hv]
  | cons c m ih =>
    obtain ⟨k, u⟩ := c
    have hk : k < i := hm (k, u) (by simp)
    rw [Memory.write, if_neg (by omega), if_neg (by omega),
      ih (fun c hc => hm c (List.mem_cons_of_mem _ hc)), List.cons_append]

theorem Memory.loadFold_eq (n : Nat) (cells : List Host.Cell) (m : Memory) (lo : Nat)
    (hm : ∀ c ∈ m, c.1 < lo) (hw : Memory.wfFrom lo cells = true) (hb : Memory.within n cells = true) :
    cells.foldl (fun m c => if c.1 < n then Memory.write m c.1 c.2 else m) m = m ++ cells := by
  induction cells generalizing m lo with
  | nil => simp
  | cons c cells ih =>
    obtain ⟨k, v⟩ := c
    have hc := Memory.within_cons.mp hb
    simp only [Memory.wfFrom, Bool.and_eq_true, decide_eq_true_eq] at hw
    have hlt : ∀ c ∈ m, c.1 < k := fun c h => Nat.lt_of_lt_of_le (hm c h) hw.1
    rw [List.foldl_cons, if_pos hc.1, Memory.write_append hlt hw.2.1,
      ih (m ++ [(k, v)]) (k + 1) ?_ hw.2.2 hc.2]
    · simp
    · intro c h
      rcases List.mem_append.mp h with h | h
      · exact Nat.lt_succ_of_lt (hlt c h)
      · rw [List.mem_singleton.mp h]; exact Nat.lt_succ_self k

/-- Loading cells already in canonical form, and of the size, gives them. -/
theorem Memory.load_canonical {n : Nat} {cells : List Host.Cell} (hw : Memory.wf cells = true)
    (hb : Memory.within n cells = true) : Memory.load n cells = cells := by
  have h := Memory.loadFold_eq n cells [] 0 (by simp) hw hb
  simpa [Memory.load] using h

end Sys2Proof.Machine
end

