-- ==== Sys2Proof/Laws/State.lean ====
section
/-! SUPPORT. One lemma per field per update of the state, each true by rfl. -/

namespace Sys2Proof.Machine

variable (s : State)

/-! ### setStatus -/

@[simp] theorem State.setStatus_status (x : Status) : (s.setStatus x).status = x := rfl
@[simp] theorem State.setStatus_cfg (x : Status) : (s.setStatus x).cfg = s.cfg := rfl
@[simp] theorem State.setStatus_controller (x : Status) : (s.setStatus x).controller = s.controller := rfl
@[simp] theorem State.setStatus_ioRam (x : Status) : (s.setStatus x).ioRam = s.ioRam := rfl
@[simp] theorem State.setStatus_trace (x : Status) : (s.setStatus x).trace = s.trace := rfl
@[simp] theorem State.setStatus_geometry (x : Status) : (s.setStatus x).geometry = s.geometry := rfl
@[simp] theorem State.setStatus_refusalMark (x : Status) : (s.setStatus x).refusalMark = s.refusalMark := rfl
@[simp] theorem State.setStatus_record (x : Status) : (s.setStatus x).record = s.record := rfl
@[simp] theorem State.setStatus_inputs (x : Status) : (s.setStatus x).inputs = s.inputs := rfl
@[simp] theorem State.setStatus_output (x : Status) : (s.setStatus x).output = s.output := rfl
@[simp] theorem State.setStatus_turn (x : Status) : (s.setStatus x).turn = s.turn := rfl

/-! ### setController -/

@[simp] theorem State.setController_status (x : Controller) : (s.setController x).status = s.status := rfl
@[simp] theorem State.setController_cfg (x : Controller) : (s.setController x).cfg = s.cfg := rfl
@[simp] theorem State.setController_controller (x : Controller) : (s.setController x).controller = x := rfl
@[simp] theorem State.setController_ioRam (x : Controller) : (s.setController x).ioRam = s.ioRam := rfl
@[simp] theorem State.setController_trace (x : Controller) : (s.setController x).trace = s.trace := rfl
@[simp] theorem State.setController_geometry (x : Controller) : (s.setController x).geometry = s.geometry := rfl
@[simp] theorem State.setController_refusalMark (x : Controller) : (s.setController x).refusalMark = s.refusalMark := rfl
@[simp] theorem State.setController_record (x : Controller) : (s.setController x).record = s.record := rfl
@[simp] theorem State.setController_inputs (x : Controller) : (s.setController x).inputs = s.inputs := rfl
@[simp] theorem State.setController_output (x : Controller) : (s.setController x).output = s.output := rfl
@[simp] theorem State.setController_turn (x : Controller) : (s.setController x).turn = s.turn := rfl

/-! ### setIoRam -/

@[simp] theorem State.setIoRam_status (x : Memory) : (s.setIoRam x).status = s.status := rfl
@[simp] theorem State.setIoRam_cfg (x : Memory) : (s.setIoRam x).cfg = s.cfg := rfl
@[simp] theorem State.setIoRam_controller (x : Memory) : (s.setIoRam x).controller = s.controller := rfl
@[simp] theorem State.setIoRam_ioRam (x : Memory) : (s.setIoRam x).ioRam = x := rfl
@[simp] theorem State.setIoRam_trace (x : Memory) : (s.setIoRam x).trace = s.trace := rfl
@[simp] theorem State.setIoRam_geometry (x : Memory) : (s.setIoRam x).geometry = s.geometry := rfl
@[simp] theorem State.setIoRam_refusalMark (x : Memory) : (s.setIoRam x).refusalMark = s.refusalMark := rfl
@[simp] theorem State.setIoRam_record (x : Memory) : (s.setIoRam x).record = s.record := rfl
@[simp] theorem State.setIoRam_inputs (x : Memory) : (s.setIoRam x).inputs = s.inputs := rfl
@[simp] theorem State.setIoRam_output (x : Memory) : (s.setIoRam x).output = s.output := rfl
@[simp] theorem State.setIoRam_turn (x : Memory) : (s.setIoRam x).turn = s.turn := rfl

/-! ### setTrace -/

@[simp] theorem State.setTrace_status (x : Trace) : (s.setTrace x).status = s.status := rfl
@[simp] theorem State.setTrace_cfg (x : Trace) : (s.setTrace x).cfg = s.cfg := rfl
@[simp] theorem State.setTrace_controller (x : Trace) : (s.setTrace x).controller = s.controller := rfl
@[simp] theorem State.setTrace_ioRam (x : Trace) : (s.setTrace x).ioRam = s.ioRam := rfl
@[simp] theorem State.setTrace_trace (x : Trace) : (s.setTrace x).trace = x := rfl
@[simp] theorem State.setTrace_geometry (x : Trace) : (s.setTrace x).geometry = s.geometry := rfl
@[simp] theorem State.setTrace_refusalMark (x : Trace) : (s.setTrace x).refusalMark = s.refusalMark := rfl
@[simp] theorem State.setTrace_record (x : Trace) : (s.setTrace x).record = s.record := rfl
@[simp] theorem State.setTrace_inputs (x : Trace) : (s.setTrace x).inputs = s.inputs := rfl
@[simp] theorem State.setTrace_output (x : Trace) : (s.setTrace x).output = s.output := rfl
@[simp] theorem State.setTrace_turn (x : Trace) : (s.setTrace x).turn = s.turn := rfl

/-! ### setGeometry -/

@[simp] theorem State.setGeometry_status (x : Lines) : (s.setGeometry x).status = s.status := rfl
@[simp] theorem State.setGeometry_cfg (x : Lines) : (s.setGeometry x).cfg = s.cfg := rfl
@[simp] theorem State.setGeometry_controller (x : Lines) : (s.setGeometry x).controller = s.controller := rfl
@[simp] theorem State.setGeometry_ioRam (x : Lines) : (s.setGeometry x).ioRam = s.ioRam := rfl
@[simp] theorem State.setGeometry_trace (x : Lines) : (s.setGeometry x).trace = s.trace := rfl
@[simp] theorem State.setGeometry_geometry (x : Lines) : (s.setGeometry x).geometry = x := rfl
@[simp] theorem State.setGeometry_refusalMark (x : Lines) : (s.setGeometry x).refusalMark = s.refusalMark := rfl
@[simp] theorem State.setGeometry_record (x : Lines) : (s.setGeometry x).record = s.record := rfl
@[simp] theorem State.setGeometry_inputs (x : Lines) : (s.setGeometry x).inputs = s.inputs := rfl
@[simp] theorem State.setGeometry_output (x : Lines) : (s.setGeometry x).output = s.output := rfl
@[simp] theorem State.setGeometry_turn (x : Lines) : (s.setGeometry x).turn = s.turn := rfl

/-! ### setRecord -/

@[simp] theorem State.setRecord_status (x : StartRecord) : (s.setRecord x).status = s.status := rfl
@[simp] theorem State.setRecord_cfg (x : StartRecord) : (s.setRecord x).cfg = s.cfg := rfl
@[simp] theorem State.setRecord_controller (x : StartRecord) : (s.setRecord x).controller = s.controller := rfl
@[simp] theorem State.setRecord_ioRam (x : StartRecord) : (s.setRecord x).ioRam = s.ioRam := rfl
@[simp] theorem State.setRecord_trace (x : StartRecord) : (s.setRecord x).trace = s.trace := rfl
@[simp] theorem State.setRecord_geometry (x : StartRecord) : (s.setRecord x).geometry = s.geometry := rfl
@[simp] theorem State.setRecord_refusalMark (x : StartRecord) : (s.setRecord x).refusalMark = s.refusalMark := rfl
@[simp] theorem State.setRecord_record (x : StartRecord) : (s.setRecord x).record = x := rfl
@[simp] theorem State.setRecord_inputs (x : StartRecord) : (s.setRecord x).inputs = s.inputs := rfl
@[simp] theorem State.setRecord_output (x : StartRecord) : (s.setRecord x).output = s.output := rfl
@[simp] theorem State.setRecord_turn (x : StartRecord) : (s.setRecord x).turn = s.turn := rfl

/-! ### setInputs -/

@[simp] theorem State.setInputs_status (x : List Input) : (s.setInputs x).status = s.status := rfl
@[simp] theorem State.setInputs_cfg (x : List Input) : (s.setInputs x).cfg = s.cfg := rfl
@[simp] theorem State.setInputs_controller (x : List Input) : (s.setInputs x).controller = s.controller := rfl
@[simp] theorem State.setInputs_ioRam (x : List Input) : (s.setInputs x).ioRam = s.ioRam := rfl
@[simp] theorem State.setInputs_trace (x : List Input) : (s.setInputs x).trace = s.trace := rfl
@[simp] theorem State.setInputs_geometry (x : List Input) : (s.setInputs x).geometry = s.geometry := rfl
@[simp] theorem State.setInputs_refusalMark (x : List Input) : (s.setInputs x).refusalMark = s.refusalMark := rfl
@[simp] theorem State.setInputs_record (x : List Input) : (s.setInputs x).record = s.record := rfl
@[simp] theorem State.setInputs_inputs (x : List Input) : (s.setInputs x).inputs = x := rfl
@[simp] theorem State.setInputs_output (x : List Input) : (s.setInputs x).output = s.output := rfl
@[simp] theorem State.setInputs_turn (x : List Input) : (s.setInputs x).turn = s.turn := rfl

/-! ### setOutput -/

@[simp] theorem State.setOutput_status (x : Output) : (s.setOutput x).status = s.status := rfl
@[simp] theorem State.setOutput_cfg (x : Output) : (s.setOutput x).cfg = s.cfg := rfl
@[simp] theorem State.setOutput_controller (x : Output) : (s.setOutput x).controller = s.controller := rfl
@[simp] theorem State.setOutput_ioRam (x : Output) : (s.setOutput x).ioRam = s.ioRam := rfl
@[simp] theorem State.setOutput_trace (x : Output) : (s.setOutput x).trace = s.trace := rfl
@[simp] theorem State.setOutput_geometry (x : Output) : (s.setOutput x).geometry = s.geometry := rfl
@[simp] theorem State.setOutput_refusalMark (x : Output) : (s.setOutput x).refusalMark = s.refusalMark := rfl
@[simp] theorem State.setOutput_record (x : Output) : (s.setOutput x).record = s.record := rfl
@[simp] theorem State.setOutput_inputs (x : Output) : (s.setOutput x).inputs = s.inputs := rfl
@[simp] theorem State.setOutput_output (x : Output) : (s.setOutput x).output = x := rfl
@[simp] theorem State.setOutput_turn (x : Output) : (s.setOutput x).turn = s.turn := rfl

/-! ### tick -/

@[simp] theorem State.tick_status : s.tick.status = s.status := rfl
@[simp] theorem State.tick_cfg : s.tick.cfg = s.cfg := rfl
@[simp] theorem State.tick_controller : s.tick.controller = s.controller := rfl
@[simp] theorem State.tick_ioRam : s.tick.ioRam = s.ioRam := rfl
@[simp] theorem State.tick_trace : s.tick.trace = s.trace := rfl
@[simp] theorem State.tick_geometry : s.tick.geometry = s.geometry := rfl
@[simp] theorem State.tick_refusalMark : s.tick.refusalMark = s.refusalMark := rfl
@[simp] theorem State.tick_record : s.tick.record = s.record := rfl
@[simp] theorem State.tick_inputs : s.tick.inputs = s.inputs := rfl
@[simp] theorem State.tick_output : s.tick.output = s.output := rfl
@[simp] theorem State.tick_turn : s.tick.turn = s.turn + 1 := rfl

/-! ### mark -/

@[simp] theorem State.mark_status (c : Descriptor) : (s.mark c).status = s.status := rfl
@[simp] theorem State.mark_cfg (c : Descriptor) : (s.mark c).cfg = s.cfg := rfl
@[simp] theorem State.mark_controller (c : Descriptor) : (s.mark c).controller = s.controller := rfl
@[simp] theorem State.mark_ioRam (c : Descriptor) : (s.mark c).ioRam = s.ioRam := rfl
@[simp] theorem State.mark_trace (c : Descriptor) : (s.mark c).trace = s.trace := rfl
@[simp] theorem State.mark_geometry (c : Descriptor) : (s.mark c).geometry = s.geometry := rfl
@[simp] theorem State.mark_refusalMark (c : Descriptor) : (s.mark c).refusalMark = c :: s.refusalMark := rfl
@[simp] theorem State.mark_record (c : Descriptor) : (s.mark c).record = s.record := rfl
@[simp] theorem State.mark_inputs (c : Descriptor) : (s.mark c).inputs = s.inputs := rfl
@[simp] theorem State.mark_output (c : Descriptor) : (s.mark c).output = s.output := rfl
@[simp] theorem State.mark_turn (c : Descriptor) : (s.mark c).turn = s.turn := rfl

/-! ### The two refusals -/

@[simp] theorem refuseSession_status (r : RefuseReason) (rec : StartRecord) : (refuseSession r rec s).status = .refused r := rfl
@[simp] theorem refuseSession_cfg (r : RefuseReason) (rec : StartRecord) : (refuseSession r rec s).cfg = s.cfg := rfl
@[simp] theorem refuseSession_controller (r : RefuseReason) (rec : StartRecord) : (refuseSession r rec s).controller = s.controller := rfl
@[simp] theorem refuseSession_ioRam (r : RefuseReason) (rec : StartRecord) : (refuseSession r rec s).ioRam = s.ioRam := rfl
@[simp] theorem refuseSession_trace (r : RefuseReason) (rec : StartRecord) : (refuseSession r rec s).trace = s.trace := rfl
@[simp] theorem refuseSession_geometry (r : RefuseReason) (rec : StartRecord) : (refuseSession r rec s).geometry = s.geometry := rfl
@[simp] theorem refuseSession_refusalMark (r : RefuseReason) (rec : StartRecord) : (refuseSession r rec s).refusalMark = s.refusalMark := rfl
@[simp] theorem refuseSession_record (r : RefuseReason) (rec : StartRecord) : (refuseSession r rec s).record = rec := rfl
@[simp] theorem refuseSession_inputs (r : RefuseReason) (rec : StartRecord) : (refuseSession r rec s).inputs = s.inputs := rfl
@[simp] theorem refuseSession_output (r : RefuseReason) (rec : StartRecord) : (refuseSession r rec s).output = .start (.refused r) := rfl
@[simp] theorem refuseSession_turn (r : RefuseReason) (rec : StartRecord) : (refuseSession r rec s).turn = s.turn := rfl

@[simp] theorem refuseCycle_status (c : Descriptor) : (refuseCycle c s).status = s.status := rfl
@[simp] theorem refuseCycle_cfg (c : Descriptor) : (refuseCycle c s).cfg = s.cfg := rfl
@[simp] theorem refuseCycle_controller (c : Descriptor) : (refuseCycle c s).controller = s.controller := rfl
@[simp] theorem refuseCycle_ioRam (c : Descriptor) : (refuseCycle c s).ioRam = s.ioRam := rfl
@[simp] theorem refuseCycle_trace (c : Descriptor) : (refuseCycle c s).trace = s.trace := rfl
@[simp] theorem refuseCycle_geometry (c : Descriptor) : (refuseCycle c s).geometry = s.geometry := rfl
@[simp] theorem refuseCycle_refusalMark (c : Descriptor) : (refuseCycle c s).refusalMark = c :: s.refusalMark := rfl
@[simp] theorem refuseCycle_record (c : Descriptor) : (refuseCycle c s).record = s.record := rfl
@[simp] theorem refuseCycle_inputs (c : Descriptor) : (refuseCycle c s).inputs = s.inputs := rfl
@[simp] theorem refuseCycle_output (c : Descriptor) : (refuseCycle c s).output = .reservedCycleKind c := rfl
@[simp] theorem refuseCycle_turn (c : Descriptor) : (refuseCycle c s).turn = s.turn := rfl

/-- The state after reset holds its memories in canonical form. -/
theorem reset_memories_wf : Memory.wf State.reset.ioRam = true ∧ Memory.wf State.reset.cfg.rom = true := ⟨rfl, rfl⟩

end Sys2Proof.Machine
end

