-- ==== Sys2Proof/Laws/Ops.lean ====
section
/-! SUPPORT. What the status gate, the input port and the ownership lookup can do. -/

namespace Sys2Proof.Machine

/-- The status gate answers a next state exactly in a RUNNING session. -/
theorem whenRunning_next {s t u : State} (h : whenRunning s t = .next u) : s.status = .running ∧ t = u := by
  unfold whenRunning at h
  split at h
  · next hr => exact ⟨hr, by simpa using h⟩
  · cases h

theorem whenRunning_running {s : State} (t : State) (h : s.status = .running) : whenRunning s t = .next t := by
  simp [whenRunning, h]

theorem whenRunning_refused {s : State} {r : RefuseReason} (t : State) (h : s.status = .refused r) :
    whenRunning s t = .fault (.sessionRefused r) := by
  simp [whenRunning, h]

theorem takeInput_cons {s : State} {i : Input} {rest : List Input} (h : s.inputs = i :: rest) :
    takeInput s = some (i, s.setInputs rest) := by
  simp [takeInput, h]

theorem takeInput_nil {s : State} (h : s.inputs = []) : takeInput s = none := by
  simp [takeInput, h]

/-- Taking an input gives the first of the queue and the state with the rest. -/
theorem takeInput_some {s t : State} {i : Input} (h : takeInput s = some (i, t)) :
    ∃ rest, s.inputs = i :: rest ∧ t = s.setInputs rest := by
  unfold takeInput at h
  split at h
  · cases h
  · next j rest hj =>
    simp only [Option.some.injEq, Prod.mk.injEq] at h
    exact ⟨rest, by rw [hj, h.1], h.2.symm⟩

/-- An input put first at the port is the one taken, and the state is as before. -/
theorem takeInput_placeInput (i : Input) (s : State) : takeInput (placeInput i s) = some (i, s) := by
  simp [takeInput, placeInput, State.setInputs]

/-- A matched region is one of the table and claims the address (20_memory.md R43). -/
theorem matchRegion_some {rs : List Region} {a : Addr} {w : Owner} {o : Nat}
    (h : matchRegion rs a = some (w, o)) :
    ∃ r ∈ rs, r.owner = w ∧ claims r a = true ∧ o = regionOffset r a := by
  induction rs with
  | nil => cases h
  | cons r rs ih =>
    rw [matchRegion] at h
    split at h
    · next hc =>
      simp only [Option.some.injEq, Prod.mk.injEq] at h
      exact ⟨r, by simp, h.1, hc, h.2.symm⟩
    · obtain ⟨q, hq, hrest⟩ := ih h
      exact ⟨q, List.mem_cons_of_mem _ hq, hrest⟩

theorem claims_iff {r : Region} {a : Addr} :
    claims r a = true ↔ r.base ≤ effectiveAddr r a ∧ effectiveAddr r a < r.base + r.size := by
  simp [claims]

/-- A claimed address has its offset below the region's size. -/
theorem regionOffset_lt {r : Region} {a : Addr} (h : claims r a = true) : regionOffset r a < r.size := by
  have h := claims_iff.mp h
  unfold regionOffset
  omega

end Sys2Proof.Machine
end

