-- ==== Sys2Proof/Laws/Controller.lean ====
section
/-! SUPPORT. The controller keeps its kind and its legal values (41_bank_switch.md R100, R104, R119). -/

namespace Sys2Proof.Machine

@[simp] theorem trigger_kind (cfg : Configuration) (a : Addr) (w : Bool) (d : Byte) (c : Controller) :
    (trigger cfg a w d c).kind = c.kind := by
  cases c <;> rfl

@[simp] theorem cartWrite_kind (cfg : Configuration) (o : Nat) (d : Byte) (c : Controller) :
    (cartWrite cfg o d c).kind = c.kind := by
  cases c <;> rfl

theorem hotspotStep_lt {cfg : Configuration} {a : Addr} {w : Bool} {b : Nat} (hb : b < cfg.bankCount) :
    hotspotStep cfg a w b < cfg.bankCount := by
  unfold hotspotStep
  split
  · split
    · exact Nat.mod_lt _ (by omega)
    · exact hb
  · exact hb

theorem pageStep_lt {cfg : Configuration} {a : Addr} {w : Bool} {d : Byte} {p : Nat} (hp : p < cfg.ramPages) :
    pageStep cfg a w d p < cfg.ramPages := by
  unfold pageStep
  split
  · exact Nat.mod_lt _ (by omega)
  · exact hp

/-- A trigger leaves legal values only: every index is reduced before it is stored. -/
theorem trigger_legal {cfg : Configuration} {c : Controller} (h : Controller.Legal cfg c) (a : Addr) (w : Bool)
    (d : Byte) : Controller.Legal cfg (trigger cfg a w d c) := by
  have reduce_lt : ∀ {b : Nat} (x : Nat), b < cfg.bankCount → reduceBank cfg x < cfg.bankCount :=
    fun x hb => Nat.mod_lt _ (by omega)
  cases c with
  | fixed => trivial
  | wselAddr b =>
    simp only [trigger, Controller.Legal] at h ⊢
    split
    · exact reduce_lt _ h
    · exact h
  | wselData b =>
    simp only [trigger, Controller.Legal] at h ⊢
    split
    · exact reduce_lt _ h
    · exact h
  | hotspot b => exact hotspotStep_lt h
  | snoop b =>
    simp only [trigger, Controller.Legal] at h ⊢
    split
    · exact reduce_lt _ h
    · exact h
  | pagedRam b p m => exact ⟨hotspotStep_lt h.1, pageStep_lt h.2.1, h.2.2⟩

/-- The overlay byte index of a legal page lies in the overlay (41_bank_switch.md R117). -/
theorem overlayIndex_lt {cfg : Configuration} {p o : Nat} (hp : p < cfg.ramPages) (ho : inOverlay cfg o = true) :
    overlayIndex cfg p o < overlaySize cfg := by
  simp only [inOverlay, Bool.and_eq_true, decide_eq_true_eq] at ho
  have h1 : o - cfg.ramBase < cfg.ramWindow := by omega
  calc p * cfg.ramWindow + (o - cfg.ramBase) < p * cfg.ramWindow + cfg.ramWindow := by omega
    _ = (p + 1) * cfg.ramWindow := by ring
    _ ≤ cfg.ramPages * cfg.ramWindow := Nat.mul_le_mul_right _ hp

/-- A window write leaves legal values only. -/
theorem cartWrite_legal {cfg : Configuration} {c : Controller} (h : Controller.Legal cfg c) (o : Nat) (d : Byte) :
    Controller.Legal cfg (cartWrite cfg o d c) := by
  cases c with
  | fixed => trivial
  | wselAddr b => exact h
  | wselData b => exact h
  | hotspot b => exact h
  | snoop b => exact h
  | pagedRam b p m =>
    obtain ⟨hb, hp, hw, hn⟩ := h
    refine ⟨hb, hp, ?_⟩
    split
    · next ho => exact ⟨Memory.write_wf hw _ _, Memory.write_within hn (overlayIndex_lt hp ho) _⟩
    · exact ⟨hw, hn⟩

/-- Under a kind other than PAGED_RAM the window shows the current bank at every offset
(41_bank_switch.md R103). -/
theorem cartRead_of_kind {cfg : Configuration} {c : Controller} (h : c.kind ≠ .pagedRam) (o : Nat) :
    cartRead cfg o c = bankByte cfg c.curBank o := by
  cases c <;> first | rfl | exact absurd rfl h

/-- Outside the overlay the window shows the current bank. -/
theorem cartRead_outside {cfg : Configuration} {o : Nat} (h : inOverlay cfg o = false) (c : Controller) :
    cartRead cfg o c = bankByte cfg c.curBank o := by
  cases c <;> simp [cartRead, Controller.curBank, h]

end Sys2Proof.Machine
end

