-- ==== Sys2Proof/Laws/Access.lean ====
section
/-! SUPPORT. The decode procedure, element by element, for each kind of cycle (40_bus_decoder.md R80),
and the state each instruction's meaning answers in a RUNNING session. -/

namespace Sys2Proof.Machine

variable (s : State) (a : Addr) (d : Byte)

/-! ### The phases -/

@[simp] theorem triggered_controller (w : Bool) :
    (triggered s a w d).controller = trigger s.cfg a w d s.controller := rfl
@[simp] theorem triggered_status (w : Bool) : (triggered s a w d).status = s.status := rfl
@[simp] theorem triggered_cfg (w : Bool) : (triggered s a w d).cfg = s.cfg := rfl
@[simp] theorem triggered_ioRam (w : Bool) : (triggered s a w d).ioRam = s.ioRam := rfl
@[simp] theorem triggered_trace (w : Bool) : (triggered s a w d).trace = s.trace := rfl
@[simp] theorem triggered_geometry (w : Bool) : (triggered s a w d).geometry = s.geometry := rfl
@[simp] theorem triggered_refusalMark (w : Bool) : (triggered s a w d).refusalMark = s.refusalMark := rfl
@[simp] theorem triggered_record (w : Bool) : (triggered s a w d).record = s.record := rfl
@[simp] theorem triggered_inputs (w : Bool) : (triggered s a w d).inputs = s.inputs := rfl
@[simp] theorem triggered_turn (w : Bool) : (triggered s a w d).turn = s.turn := rfl

/-- What phase 2 of a write cycle can do: nothing, one store to SharedIoRam, or one window write. -/
theorem writeData_cases :
    ((∀ o, matchRegion s.cfg.regions a ≠ some (.ioram, o)) ∧ (∀ o, matchRegion s.cfg.regions a ≠ some (.cart, o)) ∧
      writeData s a d = s) ∨
    (∃ o, matchRegion s.cfg.regions a = some (.ioram, o) ∧
      writeData s a d = s.setIoRam (Memory.write s.ioRam o d)) ∨
    (∃ o, matchRegion s.cfg.regions a = some (.cart, o) ∧
      writeData s a d = s.setController (cartWrite s.cfg o d s.controller)) := by
  unfold writeData
  split <;> simp_all

/-! ### The four kinds of cycle -/

theorem access_peek : access .peek a d s = s.setOutput (.read (readData s a true).1 (readData s a true).2) := rfl

theorem access_read : access .read a d s =
    ((triggered s a false d).setOutput (.read (readData (triggered s a false d) a false).1
      (readData (triggered s a false d) a false).2)).tick := rfl

theorem access_fetch : access .fetch a d s =
    (((triggered s a false d).setTrace (Trace.shift s.trace (readData (triggered s a false d) a false).1 a)).setOutput
      (.read (readData (triggered s a false d) a false).1 (readData (triggered s a false d) a false).2)).tick := rfl

theorem access_write : access .write a d s =
    ((writeData (triggered s a true d) a d).setOutput (.write (writeCalls (triggered s a true d) a d))).tick := rfl

/-! ### Frames -/

/-- What no cycle changes, whatever its kind (40_bus_decoder.md R80). -/
theorem access_frame (k : CycleKind) :
    (access k a d s).status = s.status ∧ (access k a d s).cfg = s.cfg ∧
    (access k a d s).controller.kind = s.controller.kind ∧ (access k a d s).geometry = s.geometry ∧
    (access k a d s).refusalMark = s.refusalMark ∧ (access k a d s).record = s.record ∧
    (access k a d s).inputs = s.inputs := by
  cases k
  · simp [access_read]
  · rw [access_write]
    rcases writeData_cases (triggered s a true d) a d with ⟨-, -, h⟩ | ⟨o, -, h⟩ | ⟨o, -, h⟩ <;> simp [h]
  · simp [access_fetch]
  · simp [access_peek]

/-- Outside PAGED_RAM the trigger is all a write does to the controller (41_bank_switch.md R103). -/
theorem access_write_controller (h : s.controller.kind ≠ .pagedRam) :
    (access .write a d s).controller = trigger s.cfg a true d s.controller := by
  rw [access_write]
  rcases writeData_cases (triggered s a true d) a d with ⟨-, -, e⟩ | ⟨o, -, e⟩ | ⟨o, -, e⟩ <;> simp [e]
  cases hk : s.controller <;> first | rfl | (rw [hk] at h; exact absurd rfl h)

/-- Only a WRITE that SharedIoRam owns changes it (10_state.md R28). -/
theorem access_ioRam (k : CycleKind) :
    (access k a d s).ioRam = s.ioRam ∨
      ∃ o, k = .write ∧ matchRegion s.cfg.regions a = some (.ioram, o) ∧
        (access k a d s).ioRam = Memory.write s.ioRam o d := by
  cases k
  case write =>
    rw [access_write]
    rcases writeData_cases (triggered s a true d) a d with ⟨-, -, e⟩ | ⟨o, hm, e⟩ | ⟨o, -, e⟩
    · exact .inl (by simp [e])
    · exact .inr ⟨o, rfl, hm, by simp [e]⟩
    · exact .inl (by simp [e])
  all_goals exact .inl rfl

/-- A sequence that goes on goes on at its first instruction, and then through the rest. -/
theorem execAll_cons {i : Instr} {is : List Instr} {s u : State} (h : execAll (i :: is) s = .next u) :
    ∃ t, exec i s = .next t ∧ execAll is t = .next u := by
  rw [execAll] at h
  split at h
  · next t e => exact ⟨t, e, h⟩
  · cases h
  · cases h

/-! ### Answers -/

/-- Phase 2 of a read cycle answers as 40_bus_decoder.md R80 says, owner by owner. -/
theorem readData_answer (sed : Bool) :
    ReadAnswer s a sed (.read (readData s a sed).1 (readData s a sed).2) := by
  rcases hm : matchRegion s.cfg.regions a with _ | ⟨w, o⟩
  · simp [ReadAnswer, readData, hm]
  · cases w <;> simp [ReadAnswer, readData, hm, videoRead, ioRead]

/-- The step-3 read of the open-bus resolver answers as 42_open_bus.md R134 says, owner by owner. -/
theorem peekOne_answer (p : Addr) : PeekAnswer s p (peekOne s p).1 (peekOne s p).2 := by
  rcases hm : matchRegion s.cfg.regions p with _ | ⟨w, o⟩
  · simp [PeekAnswer, peekOne, hm]
  · cases w <;> simp [PeekAnswer, peekOne, hm, videoRead, ioRead]

/-! ### The meanings in a RUNNING session -/

variable {s}

theorem execRead_running (h : s.status = .running) : execRead a s = .next (access .read a 0 s) :=
  whenRunning_running _ h
theorem execWrite_running (h : s.status = .running) : execWrite a d s = .next (access .write a d s) :=
  whenRunning_running _ h
theorem execFetch_running (h : s.status = .running) : execFetch a s = .next (access .fetch a 0 s) :=
  whenRunning_running _ h
theorem execPeek_running (h : s.status = .running) : execPeek a s = .next (access .peek a 0 s) :=
  whenRunning_running _ h

end Sys2Proof.Machine
end

