-- ==== Sys2Proof/Laws/Decode.lean ====
section
/-! SUPPORT. The fields of a descriptor that was put together, and decoding by the kind field. -/

namespace Sys2Proof

theorem descriptorAddr_descriptorOf (k : KindField) (a : Addr) (d : Byte) :
    descriptorAddr (descriptorOf k a d) = a := by
  apply BitVec.eq_of_getLsbD_eq
  intro i hi
  simp only [descriptorAddr, descriptorOf, BitVec.getLsbD_extractLsb', BitVec.getLsbD_append]
  simp (disch := omega) [hi, show i < 16 by omega]

theorem descriptorKind_descriptorOf (k : KindField) (a : Addr) (d : Byte) :
    descriptorKind (descriptorOf k a d) = k := by
  apply BitVec.eq_of_getLsbD_eq
  intro i hi
  simp only [descriptorKind, descriptorOf, BitVec.getLsbD_extractLsb', BitVec.getLsbD_append]
  simp [hi, show 13 + i < 16 by omega, show ¬ 13 + i < 13 by omega]

theorem descriptorData_descriptorOf (k : KindField) (a : Addr) (d : Byte) :
    descriptorData (descriptorOf k a d) = d := by
  apply BitVec.eq_of_getLsbD_eq
  intro i hi
  simp only [descriptorData, descriptorOf, BitVec.getLsbD_extractLsb', BitVec.getLsbD_append]
  simp [hi, show ¬ 16 + i < 16 by omega]

/-- Every descriptor is put together from its fields. -/
theorem descriptorOf_fields (c : Descriptor) :
    descriptorOf (descriptorKind c) (descriptorAddr c) (descriptorData c) = c := by
  apply BitVec.eq_of_getLsbD_eq
  intro i hi
  simp only [descriptorKind, descriptorAddr, descriptorData, descriptorOf, BitVec.getLsbD_append,
    BitVec.getLsbD_extractLsb']
  by_cases h16 : i < 16
  · by_cases h13 : i < 13
    · simp [h16, h13]
    · simp [h16, h13, show i - 13 < 3 by omega, show 13 + (i - 13) = i by omega]
  · simp [h16, show i - 16 < 8 by omega, show 16 + (i - 16) = i by omega]

/-- Decoding a descriptor put together from its fields (30_encoding.md R62). -/
theorem decodeCycle_descriptorOf (k : KindField) (a : Addr) (d : Byte) :
    decodeCycle (descriptorOf k a d) =
      if k = 0b000 then .read a
      else if k = 0b001 then .write a d
      else if k = 0b010 then .fetch a
      else if k = 0b100 then .peek a
      else if k = 0b011 then .reservedK011 a d
      else if k = 0b101 then .reservedK101 a d
      else if k = 0b110 then .reservedK110 a d
      else .reservedK111 a d := by
  simp only [decodeCycle, descriptorKind_descriptorOf, descriptorAddr_descriptorOf,
    descriptorData_descriptorOf]

/-- An id of no scheme decodes to the unknown-scheme row (30_encoding.md R66). -/
theorem decodeScheme_unknown {id : SchemeId} (h : 6 ≤ id.toNat) : decodeScheme id = .schemeUnknown id := by
  have hne : ∀ n : Nat, n < 6 → id ≠ BitVec.ofNat 8 n := by
    intro n hn e
    rw [e, BitVec.toNat_ofNat] at h
    omega
  have h0 : id ≠ 0 := hne 0 (by omega)
  have h1 : id ≠ 1 := hne 1 (by omega)
  have h2 : id ≠ 2 := hne 2 (by omega)
  have h3 : id ≠ 3 := hne 3 (by omega)
  have h4 : id ≠ 4 := hne 4 (by omega)
  have h5 : id ≠ 5 := hne 5 (by omega)
  simp only [decodeScheme, h0, h1, h2, h3, h4, h5, if_false]

end Sys2Proof
end

