-- ==== Sys2Proof/Laws/Display.lean ====
section
/-! SUPPORT. The best match of an interval (43_display_timing.md R141). -/

namespace Sys2Proof.Machine

theorem betterMatch_iff {i c b : Lines} :
    betterMatch i c b = true ↔ distance i c < distance i b ∨ (distance i c = distance i b ∧ c.toNat ≤ b.toNat) := by
  simp [betterMatch, BitVec.le_def]

/-- No best match exactly when no candidate lies within the tolerance. -/
theorem bestMatch_none {i : Lines} {cs : List Lines} :
    bestMatch i cs = none ↔ ∀ c ∈ cs, dtTolerance < distance i c := by
  induction cs with
  | nil => simp [bestMatch]
  | cons c cs ih =>
    rw [bestMatch]
    split
    · next hc =>
      constructor
      · intro h
        split at h
        · cases h
        · split at h <;> cases h
      · intro h
        have := h c (by simp)
        omega
    · next hc => simp [ih, Nat.lt_of_not_le hc]

/-- The best match is a candidate within the tolerance, nearest of those, and least among equals. -/
theorem bestMatch_some {i b : Lines} {cs : List Lines} (h : bestMatch i cs = some b) :
    b ∈ cs ∧ distance i b ≤ dtTolerance ∧
    ∀ c ∈ cs, distance i b < distance i c ∨ (distance i b = distance i c ∧ b.toNat ≤ c.toNat) := by
  induction cs generalizing b with
  | nil => cases h
  | cons c cs ih =>
    rw [bestMatch] at h
    split at h
    · next hc =>
      split at h
      · next hn =>
        cases h
        refine ⟨by simp, hc, ?_⟩
        intro x hx
        rcases List.mem_cons.mp hx with rfl | hx
        · exact .inr ⟨rfl, Nat.le_refl _⟩
        · have := bestMatch_none.mp hn x hx
          exact .inl (by omega)
      · next b' hb' =>
        obtain ⟨hmem, htol, hmin⟩ := ih hb'
        split at h
        · next hbetter =>
          cases h
          have hbetter := betterMatch_iff.mp hbetter
          refine ⟨by simp, hc, ?_⟩
          intro x hx
          rcases List.mem_cons.mp hx with rfl | hx
          · exact .inr ⟨rfl, Nat.le_refl _⟩
          · have := hmin x hx
            omega
        · next hbetter =>
          cases h
          rw [betterMatch_iff] at hbetter
          refine ⟨List.mem_cons_of_mem _ hmem, htol, ?_⟩
          intro x hx
          rcases List.mem_cons.mp hx with rfl | hx
          · omega
          · exact hmin x hx
    · next hc =>
      obtain ⟨hmem, htol, hmin⟩ := ih h
      refine ⟨List.mem_cons_of_mem _ hmem, htol, ?_⟩
      intro x hx
      rcases List.mem_cons.mp hx with rfl | hx
      · exact .inl (by omega)
      · exact hmin x hx

/-- Two candidates that are both nearest and least are one. -/
theorem bestMatch_eq {i b : Lines} {cs : List Lines} (hmem : b ∈ cs) (htol : distance i b ≤ dtTolerance)
    (hmin : ∀ c ∈ cs, distance i b < distance i c ∨ (distance i b = distance i c ∧ b.toNat ≤ c.toNat)) :
    bestMatch i cs = some b := by
  cases h : bestMatch i cs with
  | none =>
    have := bestMatch_none.mp h b hmem
    omega
  | some b' =>
    obtain ⟨hmem', -, hmin'⟩ := bestMatch_some h
    have h1 := hmin b' hmem'
    have h2 := hmin' b hmem
    have : b'.toNat = b.toNat := by omega
    rw [BitVec.eq_of_toNat_eq this]

theorem execVsync_running {s : State} (i : Lines) (h : s.status = .running) :
    execVsync i s = .next (observe i s) :=
  whenRunning_running _ h

end Sys2Proof.Machine
end

