-- ==== Sys2Proof/Laws/OpenBus.lean ====
section
/-! SUPPORT. The open-bus resolver step by step (42_open_bus.md R130 to R135). -/

namespace Sys2Proof.Machine

variable {s : State} (a : Addr)

/-- Step 1 (R131). -/
theorem openBus_step1 (h : undriven s.cfg s.trace.lastAddr = false) : openBus s a = (lowByte a, []) := by
  unfold openBus
  rw [h]
  rfl

/-- Step 2 (R132). -/
theorem openBus_step2 (h : undriven s.cfg s.trace.lastAddr = true)
    (h2 : s.trace.lastByte.toNat < s.cfg.obThreshold ∨ s.trace.lastByte = 0xFF) :
    openBus s a = (s.trace.lastByte, []) := by
  unfold openBus
  rw [h, if_neg (by decide), if_pos h2]

/-- The variant of step 3 (R133). -/
theorem openBus_variant (h : undriven s.cfg s.trace.lastAddr = true)
    (h2 : ¬(s.trace.lastByte.toNat < s.cfg.obThreshold ∨ s.trace.lastByte = 0xFF))
    (h3 : s.cfg.obCheckPrevAddr = true ∧ undriven s.cfg s.trace.prevAddr = false) :
    openBus s a = (s.trace.lastByte, []) := by
  unfold openBus
  rw [h, if_neg (by decide), if_neg h2, h3.1, h3.2]
  rfl

/-- Steps 3 and 4 (R134, R135). -/
theorem openBus_step34 (h : undriven s.cfg s.trace.lastAddr = true)
    (h2 : ¬(s.trace.lastByte.toNat < s.cfg.obThreshold ∨ s.trace.lastByte = 0xFF))
    (h3 : ¬(s.cfg.obCheckPrevAddr = true ∧ undriven s.cfg s.trace.prevAddr = false)) :
    openBus s a = if s.trace.prevByte = s.cfg.obIndirectOpcode then peekOne s (peekAddr s.trace.lastByte)
      else (s.trace.lastByte, []) := by
  have h3 : ¬(s.cfg.obCheckPrevAddr && !undriven s.cfg s.trace.prevAddr) = true := by simpa using h3
  unfold openBus
  rw [h, if_neg (by decide), if_neg h2, if_neg h3]

/-- The answer at an unclaimed address is the open-bus byte (40_bus_decoder.md R84). -/
theorem readData_unclaimed {a : Addr} (sed : Bool) (h : matchRegion s.cfg.regions a = none) :
    readData s a sed = openBus s a := by
  simp only [readData, h]

end Sys2Proof.Machine
end

