-- ==== Sys2Proof/Laws/PerInstr.lean ====
section
/-! SUPPORT. The per-instruction family RoundTrip: one lemma per constructor of Instr. -/

namespace Sys2Proof.Laws.RoundTrip

/-- The word of a well-formed instruction decodes to that instruction. -/
def Statement (i : Instr) : Prop := i.wf = true → decode (encode i) = i

theorem read (a : Addr) : Statement (.read a) := fun _ => by
  simp [decode, encode, decodeCycle_descriptorOf]
theorem write (a : Addr) (d : Byte) : Statement (.write a d) := fun _ => by
  simp [decode, encode, decodeCycle_descriptorOf]
theorem fetch (a : Addr) : Statement (.fetch a) := fun _ => by
  simp [decode, encode, decodeCycle_descriptorOf]
theorem peek (a : Addr) : Statement (.peek a) := fun _ => by
  simp [decode, encode, decodeCycle_descriptorOf]
theorem reservedK011 (a : Addr) (d : Byte) : Statement (.reservedK011 a d) := fun _ => by
  simp [decode, encode, decodeCycle_descriptorOf]
theorem reservedK101 (a : Addr) (d : Byte) : Statement (.reservedK101 a d) := fun _ => by
  simp [decode, encode, decodeCycle_descriptorOf]
theorem reservedK110 (a : Addr) (d : Byte) : Statement (.reservedK110 a d) := fun _ => by
  simp [decode, encode, decodeCycle_descriptorOf]
theorem reservedK111 (a : Addr) (d : Byte) : Statement (.reservedK111 a d) := fun _ => by
  simp [decode, encode, decodeCycle_descriptorOf]
theorem vsync (interval : Lines) : Statement (.vsync interval) := fun _ => rfl
theorem start (record : StartRecord) : Statement (.start record) := fun _ => rfl
theorem schemeFixed : Statement .schemeFixed := fun _ => rfl
theorem schemeWselAddr : Statement .schemeWselAddr := fun _ => rfl
theorem schemeWselData : Statement .schemeWselData := fun _ => rfl
theorem schemeHotspot : Statement .schemeHotspot := fun _ => rfl
theorem schemeSnoop : Statement .schemeSnoop := fun _ => rfl
theorem schemePagedRam : Statement .schemePagedRam := fun _ => rfl
theorem schemeUnknown (id : SchemeId) : Statement (.schemeUnknown id) := fun h => by
  simpa [decode, encode] using decodeScheme_unknown (of_decide_eq_true h)

end Sys2Proof.Laws.RoundTrip
end

