-- ==== Sys2Proof/Laws/Session.lean ====
section
/-! SUPPORT. The legality checks of START and what START can do (70_reset_and_hazards.md R170). -/

namespace Sys2Proof.Machine

/-- No check fails exactly when every check holds. -/
theorem firstFailing_none {cs : List (CheckName × Bool)} :
    firstFailing cs = none ↔ ∀ c ∈ cs, c.2 = true := by
  induction cs with
  | nil => simp [firstFailing]
  | cons c cs ih =>
    obtain ⟨n, ok⟩ := c
    cases ok <;> simp [firstFailing, ih]

/-- The first failing check stands after checks that hold. -/
theorem firstFailing_split {pre post : List (CheckName × Bool)} {c : CheckName} (h : ∀ p ∈ pre, p.2 = true) :
    firstFailing (pre ++ (c, false) :: post) = some c := by
  induction pre with
  | nil => simp [firstFailing]
  | cons p pre ih =>
    obtain ⟨n, ok⟩ := p
    have hok : ok = true := h (n, ok) (by simp)
    subst hok
    simpa [firstFailing] using ih (fun p hp => h p (List.mem_cons_of_mem _ hp))

/-- What START can do: refuse an unknown id, refuse a failing check, or open the session. -/
theorem startSession_cases (rec : StartRecord) (s : State) :
    (kindOfId rec.schemeId = none ∧
      startSession rec s = (refuseSession (.unknownMappingScheme rec.schemeId) rec s).tick) ∨
    (∃ k c, kindOfId rec.schemeId = some k ∧ firstFailing (startChecks rec k) = some c ∧
      startSession rec s = (refuseSession (.invalidConfiguration c) rec s).tick) ∨
    (∃ k, kindOfId rec.schemeId = some k ∧ firstFailing (startChecks rec k) = none ∧
      startSession rec s = (openSession k rec s).tick) := by
  unfold startSession
  split
  · next h => exact .inl ⟨h, rfl⟩
  · next k h =>
    split
    · next c hc => exact .inr (.inl ⟨k, c, h, hc, rfl⟩)
    · next hc => exact .inr (.inr ⟨k, h, hc, rfl⟩)

@[simp] theorem initialController_kind (rec : StartRecord) (k : Kind) : (initialController rec k).kind = k := by
  cases k <;> rfl

/-- The ids of the six kinds are 0 to 5 (30_encoding.md R66). -/
theorem kindOfId_none {id : SchemeId} (h : 6 ≤ id.toNat) : kindOfId id = none := by
  have hne : ∀ n : Nat, n < 6 → id ≠ BitVec.ofNat 8 n := by
    intro n hn e
    rw [e, BitVec.toNat_ofNat] at h
    omega
  have h0 : id ≠ 0 := hne 0 (by omega)
  have h1 : id ≠ 1 := hne 1 (by omega)
  have h2 : id ≠ 2 := hne 2 (by omega)
  have h3 : id ≠ 3 := hne 3 (by omega)
  have h4 : id ≠ 4 := hne 4 (by omega)
  have h5 : id ≠ 5 := hne 5 (by omega)
  simp only [kindOfId, h0, h1, h2, h3, h4, h5, if_false]

/-! ### The checks are the rules' conditions -/

theorem tableW3_iff {rs : List Region} :
    tableW3 rs = true ↔ ∀ r ∈ rs, ∀ e, r.base ≤ e → e < r.base + r.size → e &&& r.mirrorMask = 0 := by
  simp only [tableW3, List.all_eq_true, List.mem_range, beq_iff_eq]
  constructor
  · intro h r hr e hlo hhi
    have := h r hr (e - r.base) (by omega)
    rwa [Nat.add_sub_cancel' hlo] at this
  · intro h r hr k hk
    exact h r hr _ (by omega) (by omega)

theorem tableW6_iff {rs : List Region} :
    tableW6 rs = true ↔ List.Pairwise (fun r q => ownerRank r.owner ≤ ownerRank q.owner) rs := by
  induction rs with
  | nil => simp [tableW6]
  | cons r rs ih => simp [tableW6, List.pairwise_cons, ih]

theorem tableChecks_iff {rs : List Region} : (∀ c ∈ tableChecks rs, c.2 = true) ↔ LegalTable rs := by
  have h5 : tableW5 rs = true ↔ ∀ r ∈ rs, r.owner = .ioram → r.size ≤ 128 := by
    simp only [tableW5, List.all_eq_true, Bool.or_eq_true, bne_iff_ne, ne_eq]
    exact forall₂_congr fun r _ => by rw [decide_eq_true_iff, ← imp_iff_not_or]; rfl
  have h4 : tableW4 rs = true ↔ (ownerCount .cart rs = 1 ∧ ownerCount .video rs ≤ 1 ∧ ownerCount .ioram rs ≤ 1 ∧
      ownerCount .ioreg rs ≤ 1) := by
    simp [tableW4]
  have h1 : tableW1 rs = true ↔ ∀ r ∈ rs, 1 ≤ r.size ∧ r.base + r.size ≤ 0x2000 := by
    simp [tableW1, busSize]
  have h2 : tableW2 rs = true ↔ ∀ r ∈ rs, r.mirrorMask < 0x2000 := by
    simp [tableW2, busSize]
  unfold LegalTable
  rw [← h1, ← h2, ← tableW3_iff, ← h4, ← h5, ← tableW6_iff]
  simp [tableChecks]

theorem isPow2_iff {n : Nat} : isPow2 n = true ↔ ∃ j, n = 2 ^ j := by
  simp only [isPow2, beq_iff_eq]
  constructor
  · intro h
    exact ⟨_, h.symm⟩
  · rintro ⟨j, rfl⟩
    rw [Nat.log2_two_pow]

theorem hotspotsDistinct_iff {hs : List Hotspot} :
    hotspotsDistinct hs = true ↔ List.Pairwise (fun h g => g.addr ≠ h.addr) hs := by
  induction hs with
  | nil => simp [hotspotsDistinct]
  | cons h hs ih => simp [hotspotsDistinct, List.pairwise_cons, ih]

theorem hotspotChecks_iff {cfg : Configuration} :
    (∀ c ∈ hotspotChecks cfg, c.2 = true) ↔ LegalHotspots cfg.hotspots := by
  unfold LegalHotspots
  rw [← hotspotsDistinct_iff]
  simp [hotspotChecks, busSize]

theorem imageChecks_iff {cfg : Configuration} :
    (∀ c ∈ imageChecks cfg, c.2 = true) ↔
      (1 ≤ cfg.bankCount ∧ (∃ j, cfg.bankSize = 2 ^ j) ∧ cfg.bankSize ≤ cartSize cfg.regions) := by
  rw [← isPow2_iff]
  simp [imageChecks]

theorem kindChecks_iff {cfg : Configuration} {k : Kind} :
    (∀ c ∈ kindChecks cfg k, c.2 = true) ↔ LegalKind cfg k := by
  cases k with
  | fixed => simp [kindChecks, LegalKind]
  | wselAddr => simp [kindChecks, LegalKind]
  | wselData => simp [kindChecks, LegalKind]
  | hotspot => exact hotspotChecks_iff
  | snoop => simp [kindChecks, LegalKind]
  | pagedRam =>
    simp only [kindChecks, LegalKind, ← hotspotChecks_iff, List.forall_mem_append]
    simp [busSize]

/-- START's checks hold exactly of a legal record. -/
theorem startChecks_iff {rec : StartRecord} {k : Kind} :
    firstFailing (startChecks rec k) = none ↔ LegalStart rec k := by
  have ho : (∀ c ∈ overlayChecks rec k, c.2 = true) ↔
      (k = .pagedRam → rec.overlayBytes = some (rec.cfg.ramPages * rec.cfg.ramWindow)) := by
    cases k <;> simp [overlayChecks, overlaySize]
  have hd : (∀ c ∈ candidateChecks rec.cfg, c.2 = true) ↔ rec.cfg.dtCandidates ≠ [] := by
    simp [candidateChecks]
  rw [firstFailing_none]
  unfold startChecks LegalStart
  simp only [List.forall_mem_append, tableChecks_iff, imageChecks_iff, kindChecks_iff, ho, hd]
  tauto

/-- A legal record's configuration is legal in the session it starts. -/
theorem sessionConfiguration_legal {rec : StartRecord} {k : Kind}
    (h : firstFailing (startChecks rec k) = none) : Configuration.Legal (sessionConfiguration rec.cfg) k := by
  refine ⟨?_, Memory.load_wf _ _, Memory.load_within _ _⟩
  rw [firstFailing_none] at h ⊢
  intro c hc
  apply h c
  have hk : kindChecks (sessionConfiguration rec.cfg) k = kindChecks rec.cfg k := by cases k <;> rfl
  have hi : imageChecks (sessionConfiguration rec.cfg) = imageChecks rec.cfg := rfl
  have hr : (sessionConfiguration rec.cfg).regions = rec.cfg.regions := rfl
  have hd : candidateChecks (sessionConfiguration rec.cfg) = candidateChecks rec.cfg := rfl
  unfold configurationChecks at hc
  rw [hk, hi, hr, hd] at hc
  unfold startChecks
  simp only [List.mem_append] at hc ⊢
  tauto

/-- The controller START makes holds legal values. -/
theorem initialController_legal {rec : StartRecord} {k : Kind} (h : LegalStart rec k) :
    Controller.Legal (sessionConfiguration rec.cfg) (initialController rec k) := by
  have hb : reduceBank rec.cfg rec.initBank < rec.cfg.bankCount := Nat.mod_lt _ h.2.1.1
  cases k with
  | fixed => trivial
  | wselAddr => exact hb
  | wselData => exact hb
  | hotspot => exact hb
  | snoop => exact hb
  | pagedRam =>
    have hp : 1 ≤ rec.cfg.ramPages := h.2.2.1.2.2.2.1
    exact ⟨hb, Nat.mod_lt _ hp, Memory.load_wf _ _, Memory.load_within _ _⟩

end Sys2Proof.Machine
end

