-- ==== Sys2Proof/Tests/Slice0.lean ====
section
/-! SUPPORT. The model's own tests: expected results are those of spec/95_test_vectors.md, by the section
named, and the encodings are written out from 30_encoding.md. The last part shows, for every
statement with hypotheses, states and operands that meet them. -/

namespace Sys2Proof.Tests.Slice0
open Sys2Proof.Machine

/-! ### Helpers -/

/-- A RUNNING session with a configuration and a controller; everything else as at reset. -/
def session (cfg : Configuration) (c : Controller) : State :=
  { State.reset with cfg := cfg, controller := c }

/-- One field of the state an outcome gives. -/
def field {α : Type} (f : State → α) : Host.Outcome State Fault Refusal → Option α
  | .next t => some (f t)
  | .fault _ => none
  | .refused _ => none

/-- The result byte of a read cycle. -/
def resultByte (s : State) : Option Byte :=
  match s.output with
  | .read b _ => some b
  | _ => none

/-- Four banks, every byte of a bank the same (L1.2): with BANK_SIZE 1 the window repeats the byte. -/
def fourBanks : Configuration :=
  { referenceConfiguration with
    bankCount := 4, bankSize := 1, rom := [(0, 0xAA), (1, 0xBB), (2, 0xCC), (3, 0xDD)] }

/-- Two banks filled 0x11 and 0x22 (L2.6). -/
def twoBanks : Configuration :=
  { referenceConfiguration with bankSize := 1, rom := [(0, 0x11), (1, 0x22)] }

/-- The FIXED configuration of L2.4. -/
def fixedBanks : Configuration :=
  { referenceConfiguration with bankSize := 0x800, rom := [(0x123, 0x5A), (0x923, 0x6B)] }

/-- The trace and IoRam of L2.3. -/
def decoderState : State :=
  { session referenceConfiguration .fixed with ioRam := [(5, 0x3C)], trace := ⟨0x85, 0x1004, 0xEA, 0x1003⟩ }

/-! ### Well-formedness -/

theorem test_wf_refuses_a_known_id : (Instr.schemeUnknown 3).wf = false ∧ (Instr.schemeUnknown 5).wf = false := by
  decide

theorem test_wf_takes_the_unknown_ids : (Instr.schemeUnknown 6).wf = true ∧ (Instr.schemeUnknown 255).wf = true := by
  decide

/-! ### Decoding: every constructor by a word written out from 30_encoding.md R61, R62, R65, R66 -/

-- D = 0000 0000, K = 000, A = 1 1111 1111 1001
theorem test_decode_read : decode (.cycle 0b000000000001111111111001) = .read 0x1FF9 := by decide
-- D = 0101 0101, K = 001, A = 0 0000 0011 1101
theorem test_decode_write : decode (.cycle 0b010101010010000000111101) = .write 0x003D 0x55 := by decide
-- K = 010, A = 1 0000 0000 0000
theorem test_decode_fetch : decode (.cycle 0b000000000101000000000000) = .fetch 0x1000 := by decide
-- K = 100, A = 1 1111 1111 1001
theorem test_decode_peek : decode (.cycle 0b000000001001111111111001) = .peek 0x1FF9 := by decide
theorem test_decode_reservedK011 : decode (.cycle 0b000000000110000000000000) = .reservedK011 0 0 := by decide
theorem test_decode_reservedK101 : decode (.cycle 0b000000001010000010000101) = .reservedK101 0x0085 0 := by decide
theorem test_decode_reservedK110 : decode (.cycle 0b000000001100000000000000) = .reservedK110 0 0 := by decide
theorem test_decode_reservedK111 : decode (.cycle 0b000100101110000000000000) = .reservedK111 0 0x12 := by decide
theorem test_decode_vsync : decode (.vsync 0b0000000100000111) = .vsync 263 := by decide
theorem test_decode_start : decode (.start referenceRecord) = .start referenceRecord := rfl
theorem test_decode_schemes :
    decode (.schemeId 0b00000000) = .schemeFixed ∧ decode (.schemeId 0b00000001) = .schemeWselAddr ∧
    decode (.schemeId 0b00000010) = .schemeWselData ∧ decode (.schemeId 0b00000011) = .schemeHotspot ∧
    decode (.schemeId 0b00000100) = .schemeSnoop ∧ decode (.schemeId 0b00000101) = .schemePagedRam ∧
    decode (.schemeId 0b00000110) = .schemeUnknown 6 ∧ decode (.schemeId 0b11111111) = .schemeUnknown 255 := by
  decide

theorem test_decodeBytes :
    decodeBytes .bus [0x3D, 0x20, 0x55] = .ok (.write 0x003D 0x55) ∧
    decodeBytes .sync [0x07, 0x01] = .ok (.vsync 263) ∧
    decodeBytes .bus [0x3D, 0x20] = .error (.wrongLength .bus) ∧
    decodeBytes .scheme [] = .error (.wrongLength .scheme) := ⟨rfl, rfl, rfl, rfl⟩

theorem test_decodeTableWord :
    decodeTableWord 24 0x55203D = some (.write 0x003D 0x55) ∧
    decodeTableWord 16 0x1FF9 = some (.read 0x1FF9) ∧
    decodeTableWord 16 0x5000 = some (.fetch 0x1000) ∧ decodeTableWord 16 0x9FF9 = some (.peek 0x1FF9) ∧
    decodeTableWord 24 0x12E000 = some (.reservedK111 0 0x12) ∧ decodeTableWord 16 0xFFFF = some (.vsync 0xFFFF) ∧
    decodeTableWord 8 4 = some .schemeSnoop ∧ decodeTableWord 8 9 = some (.schemeUnknown 9) ∧
    decodeTableWord 8 0x100 = none ∧ decodeTableWord 40 0 = none := by
  decide

-- R64, for the reference IOREG row: mirrorMask 0 1101 0000 0000, size 00 0000 0010 0000, base 0 0010 1000 0000, owner 10
theorem test_packRegion :
    packRegion ⟨.ioreg, 0x0280, 0x0020, 0x0D00⟩ = 0b011010000000000000000100000000101000000010 := by decide

theorem test_withFetchWord_runs_the_word :
    step (State.reset.withFetchWord 24 0x55203D) = exec (.write 0x003D 0x55) State.reset ∧
    step (State.reset.withFetchWord 8 1) = exec .schemeWselAddr State.reset ∧
    step (State.reset.withFetchWord 0 0) = exec (.start referenceRecord) State.reset := ⟨rfl, rfl, rfl⟩

/-! ### The address map (L1.1, L2.2) -/

theorem test_match_reference :
    matchRegion referenceRegions 0x003D = some (.video, 0x3D) ∧ matchRegion referenceRegions 0x0200 = some (.video, 0) ∧
    matchRegion referenceRegions 0x0F7F = some (.video, 0x7F) ∧ matchRegion referenceRegions 0x0185 = some (.ioram, 5) ∧
    matchRegion referenceRegions 0x0DFF = some (.ioram, 0x7F) ∧ matchRegion referenceRegions 0x0B80 = some (.ioreg, 0) ∧
    matchRegion referenceRegions 0x0F9F = some (.ioreg, 0x1F) ∧ matchRegion referenceRegions 0x02A0 = none ∧
    matchRegion referenceRegions 0x0FFF = none ∧ matchRegion referenceRegions 0x1000 = some (.cart, 0) ∧
    matchRegion referenceRegions 0x1FFF = some (.cart, 0xFFF) := by
  decide

theorem test_match_stride :
    strideMask 0x100 0x400 = 0x300 ∧ matchRegion [⟨.ioram, 0, 0x80, 0x300⟩] 0x300 = some (.ioram, 0) ∧
    matchRegion [⟨.ioram, 0, 0x80, 0x300⟩] 0x37F = some (.ioram, 0x7F) ∧
    matchRegion [⟨.ioram, 0, 0x80, 0x300⟩] 0x080 = none ∧ matchRegion [⟨.ioram, 0, 0x80, 0x300⟩] 0x1100 = none := by
  decide

/-! ### The bus cycles (L2.3) -/

theorem test_read_mirror : field resultByte (exec (.read 0x0485) decoderState) = some (some 0x3C) := by decide
theorem test_read_unclaimed : field resultByte (exec (.read 0x02A5) decoderState) = some (some 0x85) := by decide
theorem test_write_mirror : field State.ioRam (exec (.write 0x0185 0x7F) decoderState) = some [(5, 0x7F)] := by decide
theorem test_write_event :
    field State.output (exec (.write 0x0294 0x40) decoderState) = some (.write [.ioWrite 0x14 0x40]) := by decide
theorem test_fetch_trace :
    field State.trace (exec (.fetch 0x02A5) decoderState) = some ⟨0x85, 0x02A5, 0x85, 0x1004⟩ := by decide
-- the fetch at a hotspot reads the bank it selects (L2.6)
theorem test_fetch_hotspot : field resultByte (exec (.fetch 0x1FF8) (session twoBanks (.hotspot 1))) = some (some 0x11) := by
  decide
theorem test_peek_hotspot : field resultByte (exec (.peek 0x1FF8) (session twoBanks (.hotspot 1))) = some (some 0x22) := by
  decide
theorem test_peek_no_trigger :
    field State.controller (exec (.peek 0x1FF8) (session twoBanks (.hotspot 1))) = some (.hotspot 1) := by decide
/-- A VIDEO read hands the chip the open-bus byte 0x85 (L2.3, R89). -/
theorem test_read_video (v : Byte) (h : Config.videoAnswer 0 0x30 0x85 false = v) :
    field State.output (exec (.read 0x0030) decoderState) = some (.read v [.videoRead 0x30 0x85 false v]) := by
  rw [← h]
  rfl
theorem test_reserved_mark :
    field State.refusalMark (exec (decode (.cycle 0x006000)) State.reset) = some [0x006000] ∧
    field State.refusalMark (exec (decode (.cycle 0x00A085)) State.reset) = some [0x00A085] ∧
    field State.refusalMark (exec (decode (.cycle 0x00C000)) State.reset) = some [0x00C000] ∧
    field State.refusalMark (exec (decode (.cycle 0x12E000)) State.reset) = some [0x12E000] := by decide

/-! ### The scheme kinds (L2.4 to L2.6, L1.2, L1.5) -/

theorem test_fixed_mirrors_bank_zero :
    field resultByte (exec (.read 0x1923) (session fixedBanks .fixed)) = some (some 0x5A) := by decide
theorem test_wselAddr :
    field State.controller (exec (.write 0x1FF3 0xA5) (session fourBanks (.wselAddr 0))) = some (.wselAddr 3) ∧
    field State.controller (exec (.write 0x0FF3 0) (session fourBanks (.wselAddr 0))) = some (.wselAddr 0) := by decide
theorem test_wselAddr_wraps :
    field State.controller (exec (.write 0x1FF3 0) (session { fourBanks with bankCount := 3 } (.wselAddr 1))) =
      some (.wselAddr 0) := by decide
theorem test_wselData :
    field State.controller (exec (.write 0x1000 0x06) (session fourBanks (.wselData 0))) = some (.wselData 2) ∧
    field State.controller (exec (.write 0x0080 0x03) (session fourBanks (.wselData 1))) = some (.wselData 1) := by decide
theorem test_hotspot_outside_every_region :
    field State.controller (exec (.read 0x02A5) (session { twoBanks with hotspots := [⟨0x02A5, 1⟩] } (.hotspot 0))) =
      some (.hotspot 1) := by decide
theorem test_hotspot_write_switch :
    field State.controller (exec (.write 0x1FF9 0) (session { twoBanks with hotspotOnWrite := false } (.hotspot 0))) =
      some (.hotspot 0) ∧
    field State.controller (exec (.write 0x1FF9 0) (session twoBanks (.hotspot 0))) = some (.hotspot 1) := by decide
theorem test_snoop_video_write :
    field State.controller (exec (.write 0x003D 0x55) (session fourBanks (.snoop 0))) = some (.snoop 1) ∧
    field State.output (exec (.write 0x003D 0x55) (session fourBanks (.snoop 0))) =
      some (.write [.videoWrite 0x3D 0x55]) := by decide
theorem test_snoop_reads_after_the_switch :
    field resultByte (exec (.read 0x103E) (session fourBanks (.snoop 0))) = some (some 0xCC) ∧
    field State.controller (exec (.read 0x1F3F) (session fourBanks (.snoop 0))) = some (.snoop 0) := by decide
theorem test_paged_register :
    field State.controller (exec (.write 0x1FF0 0x05) (session twoBanks (.pagedRam 0 2 []))) =
      some (.pagedRam 0 1 []) := by decide
theorem test_paged_overlay :
    field State.controller (exec (.write 0x1010 0x77) (session twoBanks (.pagedRam 0 2 []))) =
      some (.pagedRam 0 2 [(0x210, 0x77)]) ∧
    field resultByte (exec (.read 0x1100) (session twoBanks (.pagedRam 0 2 []))) = some (some 0x11) := by decide

/-! ### The open-bus resolver (L2.7, by row) -/

/-- The state of a row: the trace, with IoRam as L2.7 has it. -/
def openBusState (pb : Byte) (pa : Addr) (lb : Byte) (la : Addr) (check : Bool) : State :=
  { session { referenceConfiguration with obCheckPrevAddr := check } .fixed with
    ioRam := [(0x06, 0x02), (0x10, 0x99), (0x7F, 0x5C)], trace := ⟨lb, la, pb, pa⟩ }

theorem test_openBus_steps :
    (openBus (openBusState 0xEA 0x1000 0x40 0x0040 false) 0x02A5).1 = 0xA5 ∧
    (openBus (openBusState 0xB1 0x1003 0x85 0x0F7F false) 0x0FFF).1 = 0xFF ∧
    (openBus (openBusState 0xB1 0x1001 0x7F 0x1002 false) 0x02A5).1 = 0x7F ∧
    (openBus (openBusState 0xB1 0x1001 0xFF 0x1002 false) 0x02A5).1 = 0xFF ∧
    (openBus (openBusState 0xEA 0x1001 0x80 0x1002 false) 0x02A5).1 = 0x80 ∧
    (openBus (openBusState 0xA1 0x1005 0x90 0x1006 false) 0x02A5).1 = 0x90 := by decide
theorem test_openBus_peek :
    (openBus (openBusState 0xB1 0x1001 0x80 0x1002 false) 0x02A5).1 = 0x00 ∧
    (openBus (openBusState 0xB1 0x1003 0x85 0x1004 false) 0x02A5).1 = 0x02 ∧
    (openBus (openBusState 0xB1 0x1003 0xFE 0x1004 false) 0x02A5).1 = 0x5C ∧
    (openBus (openBusState 0xB1 0x0004 0x85 0x1004 true) 0x02A5).1 = 0x85 ∧
    (openBus (openBusState 0xB1 0x0004 0x85 0x1004 false) 0x02A5).1 = 0x02 ∧
    (openBus (openBusState 0xB1 0x008F 0x8F 0x0090 false) 0x02A5).1 = 0x99 := by decide

/-! ### The display classifier (L2.8) -/

theorem test_vsync_commits :
    field State.geometry (exec (.vsync 340) { State.reset with geometry := 312 }) = some 342 ∧
    field State.output (exec (.vsync 263) { State.reset with geometry := 312 }) = some (.vsync true) ∧
    field State.output (exec (.vsync 266) State.reset) = some (.vsync false) ∧
    field State.geometry (exec (.vsync 65535) { State.reset with geometry := 312 }) = some 312 := by decide
theorem test_vsync_tie :
    bestMatch 103 [100, 106] = some 100 ∧ bestMatch 103 [106, 100] = some 100 ∧ bestMatch 104 [100, 106] = some 106 ∧
    bestMatch 97 [100, 106] = some 100 := by decide

/-! ### START (L2.9) -/

theorem test_start_reduces :
    field State.controller (exec (.start { referenceRecord with
      schemeId := 1, cfg := fourBanks, initBank := 6 }) State.reset) = some (.wselAddr 2) := by
  decide +kernel
theorem test_start_refuses :
    field State.status (exec (.start { referenceRecord with
      schemeId := 9, cfg := { referenceConfiguration with bankCount := 0 } }) State.reset) =
        some (.refused (.unknownMappingScheme 9)) ∧
    field State.status (exec (.start { referenceRecord with
      cfg := { referenceConfiguration with bankCount := 0 } }) State.reset) =
        some (.refused (.invalidConfiguration .bankCount)) ∧
    field State.status (exec (.start { referenceRecord with schemeId := 4
                                                            cfg := { referenceConfiguration with snoopMask := 0x1FFC } })
      State.reset) = some (.refused (.invalidConfiguration .snoopMask)) ∧
    field State.status (exec (.start { referenceRecord with
      schemeId := 5, overlayBytes := some 0x200 }) State.reset) =
        some (.refused (.invalidConfiguration .overlay)) ∧
    field State.status (exec (.start { referenceRecord with schemeId := 0
                                                            cfg := { referenceConfiguration with dtCandidates := [] } })
      State.reset) = some (.refused (.invalidConfiguration .dtCandidates)) := by
  decide +kernel
theorem test_table_checks :
    firstFailing (tableChecks (referenceRegions ++ [⟨.cart, 0, 1, 0⟩])) = some .w4 ∧
    firstFailing (tableChecks [⟨.ioram, 0, 0x100, 0⟩, ⟨.cart, 0x1000, 0x1000, 0⟩]) = some .w5 ∧
    firstFailing (tableChecks [⟨.video, 0x100, 0x80, 0xF00⟩, ⟨.cart, 0x1000, 0x1000, 0⟩]) = some .w3 ∧
    firstFailing (tableChecks [⟨.ioram, 0x80, 0x80, 0⟩, ⟨.video, 0, 0x80, 0⟩, ⟨.cart, 0x1000, 0x1000, 0⟩]) = some .w6 := by
  decide +kernel
theorem test_scheme_rows :
    field State.controller (exec .schemeFixed State.reset) = some .fixed ∧
    field State.controller (exec .schemeWselAddr State.reset) = some (.wselAddr 1) ∧
    field State.controller (exec .schemeWselData State.reset) = some (.wselData 1) ∧
    field State.controller (exec .schemeHotspot State.reset) = some (.hotspot 1) ∧
    field State.controller (exec .schemeSnoop State.reset) = some (.snoop 1) ∧
    field State.controller (exec .schemePagedRam State.reset) = some (.pagedRam 1 0 []) ∧
    field State.status (exec (.schemeUnknown 255) State.reset) = some (.refused (.unknownMappingScheme 255)) := by
  decide +kernel

/-! ### The notation (30_encoding.md R73) -/

theorem test_traceLine :
    traceLine [] (.write 0x1FF3 0x00) = some "W 1FF3,00".toList ∧ traceLine [] (.vsync 263) = some "V 263".toList ∧
    traceLine [] (.peek 0x02A5) = some "P 02A5".toList := by decide
theorem test_pseudo :
    pseudoSel referenceConfiguration 1 = some (.read 0x1FF9) ∧ pseudoSel referenceConfiguration 2 = none ∧
    pseudoWsel referenceConfiguration 3 = some (.write 0x1003 0) := by decide

/-! ### Witnesses: states and operands that meet the hypotheses of the statements

A theorem is named after the statement. Statements whose only hypothesis is a RUNNING session are met by
the state after reset (`witness_running`). -/

theorem witness_running : State.reset.status = .running := rfl

def hotspotState : State := session twoBanks (.hotspot 0)
def snoopState : State := session fourBanks (.snoop 0)
/-- SNOOP with a pattern whose matches lie in IORAM. -/
def snoopIoRamState : State := session { fourBanks with snoopMatch := 0x00BC } (.snoop 0)
def pagedState : State := session twoBanks (.pagedRam 1 3 [(0x3FF, 0x7E)])
def refusedState : State := { State.reset with status := .refused (.unknownMappingScheme 6) }

theorem consistent_fixed : (session fixedBanks .fixed).Consistent :=
  ⟨⟨by decide +kernel, by decide, by decide⟩, trivial, by decide, by decide⟩
theorem consistent_wselAddr : (session fourBanks (.wselAddr 3)).Consistent :=
  ⟨⟨by decide +kernel, by decide, by decide⟩, by show 3 < 4; decide, by decide, by decide⟩
theorem consistent_wselData : (session fourBanks (.wselData 0)).Consistent :=
  ⟨⟨by decide +kernel, by decide, by decide⟩, by show 0 < 4; decide, by decide, by decide⟩
theorem consistent_hotspot : hotspotState.Consistent :=
  ⟨⟨by decide +kernel, by decide, by decide⟩, by show 0 < 2; decide, by decide, by decide⟩
theorem consistent_snoop : snoopState.Consistent :=
  ⟨⟨by decide +kernel, by decide, by decide⟩, by show 0 < 4; decide, by decide, by decide⟩
theorem consistent_pagedRam : pagedState.Consistent :=
  ⟨⟨by decide +kernel, by decide, by decide⟩, ⟨by decide, by decide, by decide, by decide⟩, by decide, by decide⟩
theorem consistent_decoder : decoderState.Consistent :=
  ⟨⟨by decide +kernel, by decide, by decide⟩, trivial, by decide, by decide⟩

theorem witness_StepRunsTheDecodedInput :
    (State.reset.setInputs [.vsync 0, .cycle 0x001FF9]).inputs = .vsync 0 :: [.cycle 0x001FF9] ∧
    State.reset.inputs = [] := ⟨rfl, rfl⟩
theorem witness_StepRunsTheEncodedInstruction : (Instr.schemeUnknown 6).wf = true ∧ (Instr.write 0x1FFF 0xFF).wf = true := by
  decide
theorem witness_RegionPackingIsFaithful :
    ∀ r ∈ [Region.mk .video 0x1FFF 1 0x1FFF, Region.mk .cart 0 0x2000 0],
      r.base < 0x2000 ∧ r.size ≤ 0x2000 ∧ r.mirrorMask < 0x2000 := by decide
theorem witness_MatchGivesTheFirstClaimingRegion :
    matchRegion referenceRegions 0x0F9F = some (.ioreg, 0x1F) ∧ matchRegion referenceRegions 0x02A0 = none := by decide
theorem witness_StrideAndWindowGiveTheMask :
    8 ≤ 10 ∧ 10 ≤ 13 ∧ (Region.mk .ioram 0 0x80 0x300).mirrorMask = strideMask (2 ^ 8) (2 ^ 10) ∧
    13 ≤ 13 ∧ (Region.mk .ioram 0 1 0x1FFF).mirrorMask = strideMask (2 ^ 0) (2 ^ 13) := by decide
theorem witness_StepKeepsConsistency :
    (decoderState.setInputs [.cycle 0x7F2185]).Consistent ∧ ∃ t, step (decoderState.setInputs [.cycle 0x7F2185]) = .next t :=
  ⟨⟨consistent_decoder.config, consistent_decoder.controller, consistent_decoder.ioRamWf,
    consistent_decoder.ioRamWithin⟩, _, rfl⟩
theorem witness_RefusedSessionHasNoStep : refusedState.status = .refused (.unknownMappingScheme 6) := rfl
theorem witness_StartRunsExactlyTheLegalRecords :
    State.reset.status = .running ∧ kindOfId referenceRecord.schemeId = some .hotspot := ⟨rfl, by decide⟩

/-- The reference record is legal for every kind. -/
theorem legal_reference (k : Kind) : LegalStart referenceRecord k := by
  rw [← startChecks_iff]
  cases k <;> decide +kernel

/-- A record with contents. -/
def filledRecord (id : SchemeId) : StartRecord :=
  { referenceRecord with
    schemeId := id, cfg := twoBanks, initIoRam := [(0, 1), (127, 2)], initCartRam := [(0x3FF, 3)] }

theorem witness_SuccessfulStartSetsEveryElement :
    (∀ k, LegalStart (filledRecord 5) k) ∧ kindOfId (filledRecord 5).schemeId = some .pagedRam ∧
    kindOfId (filledRecord 0).schemeId = some .fixed ∧ Memory.wf (filledRecord 5).initCartRam = true ∧
    Memory.within ((filledRecord 5).cfg.ramPages * (filledRecord 5).cfg.ramWindow) (filledRecord 5).initCartRam = true ∧
    Memory.wf (filledRecord 5).initIoRam = true ∧ Memory.within 128 (filledRecord 5).initIoRam = true ∧
    Memory.wf (filledRecord 5).cfg.rom = true ∧
    Memory.within ((filledRecord 5).cfg.bankCount * (filledRecord 5).cfg.bankSize) (filledRecord 5).cfg.rom = true := by
  refine ⟨fun k => ?_, by decide, by decide, by decide, by decide, by decide, by decide, by decide, by decide⟩
  rw [← startChecks_iff]
  cases k <;> decide +kernel
theorem witness_UnknownSchemeIsRefusedFirst :
    6 ≤ (filledRecord 6).schemeId.toNat ∧ 6 ≤ (filledRecord 255).schemeId.toNat := by decide

/-- A record whose BANK_COUNT is 0 and whose candidates are empty. -/
def badRecord : StartRecord :=
  { referenceRecord with cfg := { referenceConfiguration with bankCount := 0, dtCandidates := [] } }

theorem witness_FirstFailingCheckGivesTheReason :
    kindOfId badRecord.schemeId = some .hotspot ∧ ∃ post,
    tableChecks badRecord.cfg.regions ++ ((imageChecks badRecord.cfg ++ (kindChecks badRecord.cfg .hotspot ++
      overlayChecks badRecord .hotspot)) ++ candidateChecks badRecord.cfg) =
      tableChecks badRecord.cfg.regions ++ (.bankCount, false) :: post ∧
    ∀ p ∈ tableChecks badRecord.cfg.regions, p.2 = true :=
  ⟨by decide, _, rfl, by decide +kernel⟩
theorem witness_RefusedStartWritesTheStatusOnly :
    ∃ t, exec (.start (filledRecord 255)) State.reset = .next t ∧ t.status = .refused (.unknownMappingScheme 255) :=
  ⟨_, rfl, by decide⟩
theorem witness_StartForgetsTheSessionBefore :
    ∃ t t', exec (.start (filledRecord 5)) pagedState = .next t ∧ exec (.start (filledRecord 5)) decoderState = .next t' ∧
      t.status = .running :=
  ⟨_, _, rfl, rfl, by decide +kernel⟩
theorem witness_SchemeRowsStartTheirKind :
    State.reset.status = .running ∧ LegalStart (declareScheme State.reset.record 0) .fixed ∧
    LegalStart (declareScheme State.reset.record 1) .wselAddr ∧ LegalStart (declareScheme State.reset.record 2) .wselData ∧
    LegalStart (declareScheme State.reset.record 3) .hotspot ∧ LegalStart (declareScheme State.reset.record 4) .snoop ∧
    LegalStart (declareScheme State.reset.record 5) .pagedRam :=
  ⟨rfl, legal_reference .fixed, legal_reference .wselAddr, legal_reference .wselData, legal_reference .hotspot,
    legal_reference .snoop, legal_reference .pagedRam⟩
theorem witness_SchemeRowsSetTheOtherElements :
    (∀ p ∈ [(Instr.schemeFixed, 0#8, Kind.fixed), (.schemeWselAddr, 1#8, .wselAddr), (.schemeWselData, 2#8, .wselData),
      (.schemeHotspot, 3#8, .hotspot), (.schemeSnoop, 4#8, .snoop), (.schemePagedRam, 5#8, .pagedRam)],
      field State.status (exec p.1 pagedState) = some .running) ∧
    (State.reset.setRecord badRecord).status = .running ∧
    ∀ id k, ¬LegalStart (declareScheme (State.reset.setRecord badRecord).record id) k :=
  ⟨by decide +kernel, rfl, fun _ _ h => absurd (show 1 ≤ 0 from h.2.1.1) (by decide)⟩
theorem witness_ReservedKindsOnlyLeaveTheMark :
    (Instr.reservedK111 0x1FFF 0xFF, 0b111#3) ∈ [(Instr.reservedK011 0x1FFF 0xFF, 0b011#3),
      (Instr.reservedK101 0x1FFF 0xFF, 0b101#3), (Instr.reservedK110 0x1FFF 0xFF, 0b110#3),
      (Instr.reservedK111 0x1FFF 0xFF, 0b111#3)] := by decide
theorem witness_OnlyReservedKindsLeaveTheHardware :
    State.reset.Clean ∧ startsSession (.write 0x0085 1) = false ∧ startsSession (.reservedK011 0 0) = false ∧
    (∃ t, exec (.write 0x0085 1) State.reset = .next t) ∧ ∃ t, exec (.reservedK011 0 0) State.reset = .next t :=
  ⟨⟨rfl, rfl⟩, rfl, rfl, ⟨_, rfl⟩, _, rfl⟩
theorem witness_PeeksAreRepeatable : ∃ t, exec (.peek 0x1FF9) hotspotState = .next t := ⟨_, rfl⟩
theorem witness_PeekReturnsWhatAReadWould :
    matchRegion hotspotState.cfg.regions 0x1FFA = some (.cart, 0xFFA) ∧
    matchRegion hotspotState.cfg.regions 0x0DFF = some (.ioram, 0x7F) ∧
    trigger hotspotState.cfg 0x1FFA false 0 hotspotState.controller = hotspotState.controller ∧
    trigger hotspotState.cfg 0x0DFF false 0 hotspotState.controller = hotspotState.controller ∧
    (∃ t, exec (.read 0x1FFA) hotspotState = .next t) ∧ (∃ t, exec (.peek 0x1FFA) hotspotState = .next t) ∧
    (∃ t, exec (.read 0x0DFF) hotspotState = .next t) ∧ ∃ t, exec (.peek 0x0DFF) hotspotState = .next t :=
  ⟨by decide, by decide, by decide, by decide, ⟨_, rfl⟩, ⟨_, rfl⟩, ⟨_, rfl⟩, _, rfl⟩
theorem witness_WriteTriggersThenStores :
    decoderState.Consistent ∧ decoderState.status = .running ∧
    matchRegion decoderState.cfg.regions 0x0FFF = none ∧
    matchRegion decoderState.cfg.regions 0x0F7F = some (.video, 0x7F) ∧
    matchRegion decoderState.cfg.regions 0x0F9F = some (.ioreg, 0x1F) ∧
    matchRegion decoderState.cfg.regions 0x0DFF = some (.ioram, 0x7F) ∧
    matchRegion decoderState.cfg.regions 0x1FFF = some (.cart, 0xFFF) :=
  ⟨consistent_decoder, rfl, by decide, by decide, by decide, by decide, by decide⟩
theorem witness_UnclaimedReadsFloatAndWritesVanish :
    decoderState.status = .running ∧ matchRegion decoderState.cfg.regions 0x02A0 = none := ⟨rfl, by decide⟩
theorem witness_SnoopedCyclesReachTheirOwner :
    snoopState.status = .running ∧ snoopState.controller = .snoop 0 ∧
    (0x003F : Addr).toNat &&& snoopState.cfg.snoopMask = snoopState.cfg.snoopMatch ∧
    matchRegion snoopState.cfg.regions 0x003F = some (.video, 0x3F) ∧
    snoopIoRamState.status = .running ∧ snoopIoRamState.controller = .snoop 0 ∧
    (0x00BF : Addr).toNat &&& snoopIoRamState.cfg.snoopMask = snoopIoRamState.cfg.snoopMatch ∧
    matchRegion snoopIoRamState.cfg.regions 0x00BF = some (.ioram, 0x3F) := by decide
theorem witness_SharedIoRamReturnsTheLastWrite :
    decoderState.Consistent ∧ matchRegion decoderState.cfg.regions 0x0DFF = some (.ioram, 0x7F) ∧
    matchRegion decoderState.cfg.regions 0x00FF = some (.ioram, 0x7F) ∧
    (∃ t u, exec (.write 0x0DFF 0) decoderState = .next t ∧ execAll [.write 0x0DFE 1, .fetch 0x1000, .vsync 312] t = .next u) ∧
    ∀ i ∈ [Instr.write 0x0DFE 1, .fetch 0x1000, .vsync 312], startsSession i = false ∧
      ∀ c e, i = .write c e → matchRegion decoderState.cfg.regions c ≠ some (.ioram, 0x7F) := by
  refine ⟨consistent_decoder, by decide, by decide, ⟨_, _, rfl, rfl⟩, ?_⟩
  simp only [List.forall_mem_cons]
  refine ⟨⟨rfl, ?_⟩, ⟨rfl, nofun⟩, ⟨rfl, nofun⟩, nofun⟩
  rintro c e h
  cases h
  decide
theorem witness_OnlySessionStartChangesTheConfiguration :
    startsSession (.vsync 312) = false ∧ ∃ t, exec (.vsync 312) pagedState = .next t := ⟨rfl, _, rfl⟩
theorem witness_WhoMayChangeWhat :
    startsSession (.read 0x1FF9) = false ∧ (∃ t, exec (.read 0x1FF9) pagedState = .next t) ∧
    (∀ a, Instr.read 0x1FF9 ≠ .fetch a) ∧ (∀ a d, Instr.read 0x1FF9 ≠ .write a d) ∧ (∀ n, Instr.read 0x1FF9 ≠ .vsync n) ∧
    pagedState.controller = .pagedRam 1 3 [(0x3FF, 0x7E)] :=
  ⟨rfl, ⟨_, rfl⟩, nofun, nofun, nofun, rfl⟩
theorem witness_FixedShowsBankZero :
    (session fixedBanks .fixed).status = .running ∧ (session fixedBanks .fixed).controller = .fixed ∧
    matchRegion (session fixedBanks .fixed).cfg.regions 0x1FFF = some (.cart, 0xFFF) := by decide
theorem witness_WselAddrSelectsByTheAddress :
    (session fourBanks (.wselAddr 3)).status = .running ∧ (session fourBanks (.wselAddr 3)).controller = .wselAddr 3 ∧
    inCart fourBanks 0x1000 = true ∧ inCart fourBanks 0x0FFF = false ∧
    matchRegion fourBanks.regions 0x1000 = some (.cart, 0) := by decide
theorem witness_WselDataSelectsByTheData :
    (session fourBanks (.wselData 0)).status = .running ∧ (session fourBanks (.wselData 0)).controller = .wselData 0 ∧
    matchRegion (session fourBanks (.wselData 0)).cfg.regions 0x1FFF = some (.cart, 0xFFF) := by decide
theorem witness_HotspotsSelectByAccess :
    hotspotState.status = .running ∧ hotspotState.controller = .hotspot 0 ∧
    hotspotState.cfg.hotspots = [⟨0x1FF8, 0⟩] ++ ⟨0x1FF9, 1⟩ :: [] ∧
    (∀ g ∈ [Hotspot.mk 0x1FF8 0], g.addr ≠ (0x1FF9 : Addr).toNat) ∧ (0x1FF9 : Nat) = (0x1FF9 : Addr).toNat ∧
    (∀ g ∈ hotspotState.cfg.hotspots, g.addr ≠ (0x1FFA : Addr).toNat) ∧
    matchRegion hotspotState.cfg.regions 0x1FF9 = some (.cart, 0xFF9) ∧
    matchRegion hotspotState.cfg.regions 0x1FFA = some (.cart, 0xFFA) := by decide
theorem witness_SnoopSelectsOnEveryMatchingCycle :
    snoopState.status = .running ∧ snoopState.controller = .snoop 0 ∧
    (0x1F3C : Addr).toNat &&& snoopState.cfg.snoopMask ≠ snoopState.cfg.snoopMatch ∧
    matchRegion snoopState.cfg.regions 0x003C = some (.video, 0x3C) ∧
    matchRegion snoopState.cfg.regions 0x0280 = some (.ioreg, 0) ∧
    matchRegion snoopState.cfg.regions 0x0DFF = some (.ioram, 0x7F) ∧ Memory.wf snoopState.ioRam = true ∧
    matchRegion snoopState.cfg.regions 0x1FFF = some (.cart, 0xFFF) ∧
    matchRegion snoopState.cfg.regions 0x02A0 = none ∧ Instr.read 0x003C ≠ .write 0x003C 0 := by decide
theorem witness_SnoopIgnoresA12 :
    snoopState.Consistent ∧ snoopState.controller = .snoop 0 ∧
    (∃ t u, exec (.read 0x003E) snoopState = .next t ∧ exec (.read (0x003E ^^^ 0x1000)) snoopState = .next u) ∧
    (∃ t u, exec (.fetch 0x003E) snoopState = .next t ∧ exec (.fetch (0x003E ^^^ 0x1000)) snoopState = .next u) ∧
    ∃ t u, exec (.write 0x003E 1) snoopState = .next t ∧ exec (.write (0x003E ^^^ 0x1000) 1) snoopState = .next u :=
  ⟨consistent_snoop, rfl, ⟨_, _, rfl, rfl⟩, ⟨_, _, rfl, rfl⟩, _, _, rfl, rfl⟩
theorem witness_PageRegisterTakesTheData :
    pagedState.status = .running ∧ pagedState.controller = .pagedRam 1 3 [(0x3FF, 0x7E)] ∧
    (0x1FF0 : Addr).toNat = pagedState.cfg.pageRegAddr := by decide
theorem witness_OverlayReadsAndWritesThePage :
    pagedState.Consistent ∧ pagedState.status = .running ∧ pagedState.controller = .pagedRam 1 3 [(0x3FF, 0x7E)] ∧
    (matchRegion pagedState.cfg.regions 0x10FF = some (.cart, 0x0FF) ∧
      pagedState.cfg.ramBase ≤ 0x0FF ∧ 0x0FF < pagedState.cfg.ramBase + pagedState.cfg.ramWindow) ∧
    matchRegion pagedState.cfg.regions 0x1100 = some (.cart, 0x100) ∧
      ¬(pagedState.cfg.ramBase ≤ 0x100 ∧ 0x100 < pagedState.cfg.ramBase + pagedState.cfg.ramWindow) :=
  ⟨consistent_pagedRam, rfl, rfl, by decide, by decide, by decide⟩
theorem witness_ReadAfterSelectingWriteSeesTheBank :
    inCart fourBanks 0x1FF3 = true ∧ 3 = (windowOffset fourBanks 0x1FF3 &&& selectMask fourBanks) % 4 ∧
    2 = ((0x06 : Byte).toNat &&& selectMask fourBanks) % 4 ∧
    (∃ t, exec (.write 0x1FF3 0) (session fourBanks (.wselAddr 0)) = .next t) ∧
    (∃ t, exec (.write 0x1FF3 0x06) (session fourBanks (.wselData 0)) = .next t) ∧
    matchRegion fourBanks.regions 0x1000 = some (.cart, 0) :=
  ⟨by decide, by decide, by decide, ⟨_, rfl⟩, ⟨_, rfl⟩, by decide⟩
theorem witness_DefaultSelectMaskNamesEveryBank :
    referenceConfiguration.selectMask = none ∧ 1 ≤ referenceConfiguration.bankCount ∧
    fourBanks.selectMask = none ∧ fourBanks.bankCount = 4 := ⟨rfl, by decide, rfl, rfl⟩
theorem witness_PseudoOperationsSelectTheirBank :
    hotspotState.Consistent ∧ hotspotState.status = .running ∧ hotspotState.controller = .hotspot 0 ∧
    pseudoSel hotspotState.cfg 1 = some (.read 0x1FF9) ∧
    pagedState.Consistent ∧ pagedState.status = .running ∧ pagedState.controller = .pagedRam 1 3 [(0x3FF, 0x7E)] ∧
    pseudoSel pagedState.cfg 0 = some (.read 0x1FF8) ∧ (session fourBanks (.wselAddr 3)).Consistent ∧
    pseudoWsel fourBanks 0xFFF = some (.write 0x1FFF 0) ∧ 0xFFF < cartSize fourBanks.regions :=
  ⟨consistent_hotspot, rfl, rfl, by decide, consistent_pagedRam, rfl, rfl, by decide, consistent_wselAddr, by decide,
    by decide⟩
/-- Whether a state takes each path of the resolver, by the hypotheses of the statement. -/
theorem witness_OpenBusFollowsTheFourSteps :
    (∀ x : State, x ∈ [openBusState 0xEA 0x1000 0x40 0x0040 false, openBusState 0xB1 0x1001 0x7F 0x1002 false,
      openBusState 0xB1 0x0004 0x85 0x1004 true, openBusState 0xB1 0x1001 0x80 0x1002 false,
      openBusState 0xA1 0x1005 0x90 0x1006 false] → x.status = .running ∧ matchRegion x.cfg.regions 0x02A5 = none) ∧
    undriven referenceConfiguration 0x0040 = false ∧ undriven referenceConfiguration 0x1002 = true ∧
    (0x7F : Byte).toNat < referenceConfiguration.obThreshold ∧
    ¬((0x80 : Byte).toNat < referenceConfiguration.obThreshold ∨ (0x80 : Byte) = 0xFF) ∧
    undriven referenceConfiguration 0x0004 = false ∧ (0xB1 : Byte) = referenceConfiguration.obIndirectOpcode ∧
    (0xA1 : Byte) ≠ referenceConfiguration.obIndirectOpcode ∧
    decoderState.status = .running ∧ matchRegion decoderState.cfg.regions 0x0F7F = some (.video, 0x7F) := by decide
/-- Another image, another kind, other chips' turns: only the trace and IoRam agree. -/
def otherMachine : State :=
  { session fourBanks (.snoop 2) with
    ioRam := (openBusState 0xB1 0x1001 0x80 0x1002 false).ioRam, trace := ⟨0x80, 0x1002, 0xB1, 0x1001⟩, turn := 9 }

theorem witness_ReferenceOpenBusIsPureInTraceAndIoRam :
    HasReferenceOpenBus (openBusState 0xB1 0x1001 0x80 0x1002 false).cfg ∧ HasReferenceOpenBus otherMachine.cfg ∧
    (openBusState 0xB1 0x1001 0x80 0x1002 false).trace = otherMachine.trace ∧
    (openBusState 0xB1 0x1001 0x80 0x1002 false).ioRam = otherMachine.ioRam ∧
    undriven otherMachine.cfg 0x1002 = true ∧ 0x80 ≤ (0x80 : Byte).toNat ∧ 0x80 ≤ (0xFE : Byte).toNat ∧
    (0xFE : Byte) ≠ 0xFF ∧ matchRegion referenceRegions 0x02A5 = none ∧
    (∃ t, exec (.read 0x02A5) (openBusState 0xB1 0x1001 0x80 0x1002 false) = .next t) ∧
    ∃ t, exec (.read 0x02A5) otherMachine = .next t :=
  ⟨⟨rfl, rfl, rfl, rfl, rfl⟩, ⟨rfl, rfl, rfl, rfl, rfl⟩, rfl, rfl, by decide, by decide, by decide, by decide, by decide,
    ⟨_, rfl⟩, _, rfl⟩
theorem witness_VsyncCommitsTheNearestCandidate :
    (∀ c ∈ State.reset.cfg.dtCandidates, 3 < (((266 : Lines).toNat : Int) - (c.toNat : Int)).natAbs) ∧
    (262 : Lines) ∈ State.reset.cfg.dtCandidates ∧ (((265 : Lines).toNat : Int) - ((262 : Lines).toNat : Int)).natAbs ≤ 3 ∧
    ∀ c ∈ State.reset.cfg.dtCandidates,
      (((265 : Lines).toNat : Int) - ((262 : Lines).toNat : Int)).natAbs <
        (((265 : Lines).toNat : Int) - (c.toNat : Int)).natAbs ∨
      (((265 : Lines).toNat : Int) - ((262 : Lines).toNat : Int)).natAbs =
        (((265 : Lines).toNat : Int) - (c.toNat : Int)).natAbs ∧ (262 : Lines).toNat ≤ c.toNat := by
  show (∀ c ∈ ([262, 312, 328, 342] : List Lines), _) ∧ (262 : Lines) ∈ ([262, 312, 328, 342] : List Lines) ∧ _ ∧
    ∀ c ∈ ([262, 312, 328, 342] : List Lines), _
  simp only [List.forall_mem_cons, List.not_mem_nil, false_imp_iff, forall_const, and_true]
  decide
theorem witness_DisplayAndBusAreIndependent :
    (∃ t t', exec (.vsync 312) State.reset = .next t ∧ exec (.vsync 312) decoderState = .next t' ∧
      State.reset.cfg.dtCandidates = decoderState.cfg.dtCandidates ∧ State.reset.geometry = decoderState.geometry) ∧
    isBusCycle (.fetch 0x1FF9) = true ∧
    ∃ t, exec (.fetch 0x1FF9) State.reset = .next t := ⟨⟨_, _, rfl, rfl, rfl, rfl⟩, rfl, _, rfl⟩
theorem witness_PulsesNear262CommitOnce :
    State.reset.status = .running ∧ State.reset.cfg.dtCandidates = [262, 312, 328, 342] ∧
    (∀ n ∈ ([259, 265] : List Lines), 259 ≤ n.toNat ∧ n.toNat ≤ 265) ∧ ([259, 265] : List Lines) ≠ [] ∧
    (State.reset.setGeometry 312).geometry ≠ 262 ∧ State.reset.geometry = 262 := by
  simp only [List.forall_mem_cons, List.not_mem_nil, false_imp_iff, forall_const, and_true]
  decide

end Sys2Proof.Tests.Slice0
end

section
/-! The proof about the kind field of a bus cycle's descriptor (30_encoding.md R61, R62). -/

namespace Sys2Proof

/-- Settles O5. A descriptor is put together from its own fields, and each row of the kind table is
`decodeCycle_descriptorOf` at that row's kind: the tests of the kind are between literals, so the chain
evaluates to the row's operation, which for READ, FETCH and PEEK does not mention the data byte. -/
theorem kindFieldDecidesTheOperation : Obligations.KindFieldDecidesTheOperation := by
  unfold Obligations.KindFieldDecidesTheOperation
  constructor
  · exact fun c => (descriptorOf_fields c).symm
  · intro a d
    have row (k : KindField) := decodeCycle_descriptorOf k a d
    exact ⟨row 0b000, row 0b001, row 0b010, row 0b100, row 0b011, row 0b101, row 0b110, row 0b111⟩

end Sys2Proof
end

section
/-! Cycles at an unclaimed address (40_bus_decoder.md R84), with the rules every bus cycle shares: the
answer of each kind in a RUNNING session, and what it leaves of the session. -/

namespace Sys2Proof.Machine

variable {s : State} (a : Addr) (d : Byte)

/-! ### Every bus cycle in a RUNNING session is its `Access` -/

theorem exec_read_running (h : s.status = .running) : exec (.read a) s = .next (access .read a 0 s) :=
  execRead_running a h

theorem exec_write_running (h : s.status = .running) : exec (.write a d) s = .next (access .write a d s) :=
  execWrite_running a d h

theorem exec_fetch_running (h : s.status = .running) : exec (.fetch a) s = .next (access .fetch a 0 s) :=
  execFetch_running a h

theorem exec_peek_running (h : s.status = .running) : exec (.peek a) s = .next (access .peek a 0 s) :=
  execPeek_running a h

/-- No bus cycle changes the status, the configuration, the mark, the record or the waiting inputs. -/
theorem access_sameSession (k : CycleKind) : SameSession s (access k a d s) := by
  obtain ⟨hstatus, hcfg, -, -, hmark, hrecord, hinputs⟩ := access_frame s a d k
  exact ⟨hstatus, hcfg, hmark, hrecord, hinputs⟩

/-! ### Phase 2 at an unclaimed address -/

variable {a}

theorem writeData_unclaimed (hm : matchRegion s.cfg.regions a = none) : writeData s a d = s := by
  simp only [writeData, hm]

theorem writeCalls_unclaimed (hm : matchRegion s.cfg.regions a = none) : writeCalls s a d = [] := by
  simp only [writeCalls, hm]

/-- The result of a READ or a FETCH is the open-bus value of the state the triggers leave: a FETCH
changes the trace in phase 3, after the answer is made. -/
theorem access_read_fetch_output_unclaimed {k : CycleKind} (hk : k = .read ∨ k = .fetch)
    (hm : matchRegion s.cfg.regions a = none) :
    (access k a d s).output =
      .read (openBus (triggered s a false d) a).1 (openBus (triggered s a false d) a).2 := by
  have answer : readData (triggered s a false d) a false = openBus (triggered s a false d) a :=
    readData_unclaimed false hm
  rcases hk with rfl | rfl
  · rw [access_read, State.tick_output, State.setOutput_output, answer]
  · rw [access_fetch, State.tick_output, State.setOutput_output, answer]

/-- A PEEK's result is the open-bus value of the state it finds. -/
theorem access_peek_output_unclaimed (hm : matchRegion s.cfg.regions a = none) :
    (access .peek a d s).output = .read (openBus s a).1 (openBus s a).2 := by
  rw [access_peek, State.setOutput_output, readData_unclaimed true hm]

/-- A WRITE leaves its triggers' effect alone: the byte is stored nowhere and no chip is called. -/
theorem access_write_unclaimed (hm : matchRegion s.cfg.regions a = none) :
    access .write a d s = ((triggered s a true d).setOutput (.write [])).tick := by
  rw [access_write, writeData_unclaimed (s := triggered s a true d) d hm,
    writeCalls_unclaimed (s := triggered s a true d) d hm]

/-- Settles O33. Each cycle is its `Access`, and phase 2 finds no owner: the triggers leave the region
table as it was, so the address is unclaimed in the state they leave too. -/
theorem unclaimedReadsFloatAndWritesVanish : Obligations.UnclaimedReadsFloatAndWritesVanish := by
  unfold Obligations.UnclaimedReadsFloatAndWritesVanish
  intro s a d hrun hm
  refine ⟨?readOrFetch, ?peek, ?write⟩
  case readOrFetch =>
    rintro i (rfl | rfl)
    · exact ⟨access .read a 0 s, exec_read_running a hrun, access_read_fetch_output_unclaimed 0 (.inl rfl) hm,
        rfl, access_sameSession a 0 .read⟩
    · exact ⟨access .fetch a 0 s, exec_fetch_running a hrun, access_read_fetch_output_unclaimed 0 (.inr rfl) hm,
        rfl, access_sameSession a 0 .fetch⟩
  case peek =>
    exact ⟨access .peek a 0 s, exec_peek_running a hrun, access_peek_output_unclaimed 0 hm, rfl,
      access_sameSession a 0 .peek⟩
  case write =>
    rw [exec_write_running a d hrun, access_write_unclaimed d hm, triggered]

end Sys2Proof.Machine
end

section
/-! The rules of a bus cycle that the statements about the bank-switch controller share: the answer of a
read cycle, and what a WRITE does to the owner it finds (40_bus_decoder.md R80). -/

namespace Sys2Proof.Machine

variable {s : State} {a : Addr} {o : Nat} {i : Instr} {sed : Bool} {out : Output}

/-! ### Read cycles -/

theorem State.setController_self (s : State) : s.setController s.controller = s := rfl

/-- A READ or FETCH in a RUNNING session fires the triggers and answers against the controller they
leave (40_bus_decoder.md R81, R83). -/
theorem exec_readOrFetch_running (hrun : s.status = .running) (hi : i = .read a ∨ i = .fetch a) :
    ∃ t, exec i s = .next t ∧ t.controller = trigger s.cfg a false 0 s.controller ∧ t.ioRam = s.ioRam ∧
      ReadAnswer (s.setController t.controller) a false t.output := by
  rcases hi with rfl | rfl
  · exact ⟨access .read a 0 s, exec_read_running a hrun, rfl, rfl,
      readData_answer (triggered s a false 0) a false⟩
  · exact ⟨access .fetch a 0 s, exec_fetch_running a hrun, rfl, rfl,
      readData_answer (triggered s a false 0) a false⟩

/-- A PEEK in a RUNNING session fires no trigger (40_bus_decoder.md R85). -/
theorem exec_peek_answer (hrun : s.status = .running) :
    ∃ t, exec (.peek a) s = .next t ∧ t.controller = s.controller ∧ ReadAnswer s a true t.output :=
  ⟨access .peek a 0 s, exec_peek_running a hrun, rfl, readData_answer s a true⟩

/-- Where a READ or FETCH fires no trigger, it answers against the controller it finds. -/
theorem exec_readOrFetch_untriggered (hrun : s.status = .running)
    (htrigger : trigger s.cfg a false 0 s.controller = s.controller) (hi : i = .read a ∨ i = .fetch a) :
    ∃ t, exec i s = .next t ∧ t.controller = s.controller ∧ ReadAnswer s a false t.output := by
  obtain ⟨t, hexec, hcontroller, -, hanswer⟩ := exec_readOrFetch_running hrun hi
  rw [htrigger] at hcontroller
  rw [hcontroller, State.setController_self] at hanswer
  exact ⟨t, hexec, hcontroller, hanswer⟩

/-- Where a READ or FETCH fires no trigger, it and a PEEK alike leave the controller and answer against
it. -/
theorem exec_readCycle_untriggered (hrun : s.status = .running)
    (htrigger : trigger s.cfg a false 0 s.controller = s.controller)
    (hi : i = .read a ∨ i = .fetch a ∨ i = .peek a) :
    ∃ t sed, exec i s = .next t ∧ t.controller = s.controller ∧ ReadAnswer s a sed t.output := by
  rcases hi with hread | hfetch | rfl
  · obtain ⟨t, ht⟩ := exec_readOrFetch_untriggered hrun htrigger (.inl hread)
    exact ⟨t, false, ht⟩
  · obtain ⟨t, ht⟩ := exec_readOrFetch_untriggered hrun htrigger (.inr hfetch)
    exact ⟨t, false, ht⟩
  · obtain ⟨t, ht⟩ := exec_peek_answer (a := a) hrun
    exact ⟨t, true, ht⟩

/-- In the window the answer is the cartridge's byte, with no call. -/
theorem ReadAnswer.cart (hanswer : ReadAnswer s a sed out) (hm : matchRegion s.cfg.regions a = some (.cart, o)) :
    out = .read (cartRead s.cfg o s.controller) [] := by
  simpa only [ReadAnswer, hm] using hanswer

/-- The image byte a bank shows at a window offset (41_bank_switch.md R103, 20_memory.md R49). -/
theorem bankByte_eq (cfg : Configuration) (bank o : Nat) :
    bankByte cfg bank o = Memory.read cfg.rom (bank * cfg.bankSize + o % cfg.bankSize) := rfl

/-- Under a kind other than PAGED_RAM a window read shows the current bank (41_bank_switch.md R103). -/
theorem ReadAnswer.window (hanswer : ReadAnswer s a sed out) (hkind : s.controller.kind ≠ .pagedRam)
    (hm : matchRegion s.cfg.regions a = some (.cart, o)) :
    out = .read (Memory.read s.cfg.rom (s.controller.curBank * s.cfg.bankSize + o % s.cfg.bankSize)) [] := by
  rw [hanswer.cart hm, cartRead_of_kind hkind, bankByte_eq]

/-! ### WRITE, owner by owner (40_bus_decoder.md R82) -/

variable (d : Byte)

theorem access_write_video (hm : matchRegion s.cfg.regions a = some (.video, o)) :
    access .write a d s = ((triggered s a true d).setOutput (.write [.videoWrite o d])).tick := by
  rw [access_write]
  simp only [writeData, writeCalls, triggered_cfg, hm]

theorem access_write_ioreg (hm : matchRegion s.cfg.regions a = some (.ioreg, o)) :
    access .write a d s = ((triggered s a true d).setOutput (.write [.ioWrite o d])).tick := by
  rw [access_write]
  simp only [writeData, writeCalls, triggered_cfg, hm]

theorem access_write_ioram (hm : matchRegion s.cfg.regions a = some (.ioram, o)) :
    access .write a d s =
      (((triggered s a true d).setIoRam (Memory.write s.ioRam o d)).setOutput (.write [])).tick := by
  rw [access_write]
  simp only [writeData, writeCalls, triggered_cfg, triggered_ioRam, hm]

theorem access_write_cart (hm : matchRegion s.cfg.regions a = some (.cart, o)) :
    access .write a d s =
      ((s.setController (cartWrite s.cfg o d (trigger s.cfg a true d s.controller))).setOutput (.write [])).tick := by
  rw [access_write]
  simp only [writeData, writeCalls, triggered_cfg, triggered_controller, hm]
  rfl

/-- A window write calls no chip and leaves SharedIoRam. -/
theorem access_write_cart_frame (hm : matchRegion s.cfg.regions a = some (.cart, o)) :
    (access .write a d s).ioRam = s.ioRam ∧ (access .write a d s).output = .write [] := by
  rw [access_write_cart d hm]
  exact ⟨rfl, rfl⟩

end Sys2Proof.Machine
end

section
/-! The kinds with no trigger on a read cycle: FIXED, WSEL_ADDR and WSEL_DATA (41_bank_switch.md R105 to
R107), and the default of SELECT_MASK (R108). -/

namespace Sys2Proof.Machine

/-- A kind whose trigger fires on no read cycle, PAGED_RAM apart: a WRITE does what its trigger does and
stores nothing in the window; a read cycle leaves the controller and shows its bank. -/
theorem exec_cycles_writeOnlyTrigger {s : State} {a : Addr} (d : Byte) (hrun : s.status = .running)
    (hkind : s.controller.kind ≠ .pagedRam) (hreads : trigger s.cfg a false 0 s.controller = s.controller) :
    (∃ t, exec (.write a d) s = .next t ∧ t.controller = trigger s.cfg a true d s.controller ∧
      ∀ o, matchRegion s.cfg.regions a = some (.cart, o) → t.ioRam = s.ioRam ∧ t.output = .write []) ∧
    ∀ i, i = .read a ∨ i = .fetch a ∨ i = .peek a → ∃ t, exec i s = .next t ∧ t.controller = s.controller ∧
      ∀ o, matchRegion s.cfg.regions a = some (.cart, o) → t.output =
        .read (Memory.read s.cfg.rom (s.controller.curBank * s.cfg.bankSize + o % s.cfg.bankSize)) [] := by
  constructor
  · exact ⟨access .write a d s, exec_write_running a d hrun, access_write_controller s a d hkind,
      fun o hm => access_write_cart_frame d hm⟩
  · intro i hi
    obtain ⟨t, _, hexec, hcontroller, hanswer⟩ := exec_readCycle_untriggered hrun hreads hi
    exact ⟨t, hexec, hcontroller, fun o hm => hanswer.window hkind hm⟩

/-- Settles O38. No trigger and no window write changes FIXED's controller, so a window write leaves the
whole state but its output. -/
theorem fixedShowsBankZero : Obligations.FixedShowsBankZero := by
  unfold Obligations.FixedShowsBankZero
  intro s a d hrun hfixed
  obtain ⟨⟨u, hexecWrite, hwritten, -⟩, hreads⟩ :=
    exec_cycles_writeOnlyTrigger (a := a) d hrun (by rw [hfixed]; nofun) (by rw [hfixed]; rfl)
  rw [hfixed] at hwritten hreads
  refine ⟨?controller, fun o hm => ⟨?reads, ?write⟩⟩
  case controller =>
    have keeps (i : Instr) (hi : i = .read a ∨ i = .fetch a ∨ i = .peek a) :
        ∃ t, exec i s = .next t ∧ t.controller = .fixed := by
      obtain ⟨t, hexec, hcontroller, -⟩ := hreads i hi
      exact ⟨t, hexec, hcontroller⟩
    rintro i (hread | rfl | hfetchOrPeek)
    · exact keeps i (.inl hread)
    · exact ⟨u, hexecWrite, hwritten⟩
    · exact keeps i (.inr hfetchOrPeek)
  case reads =>
    intro i hi
    obtain ⟨t, hexec, -, hwindow⟩ := hreads i hi
    refine ⟨t, hexec, ?_⟩
    simpa [Controller.curBank] using hwindow o hm
  case write =>
    have hdiscarded : cartWrite s.cfg o d (trigger s.cfg a true d s.controller) = s.controller := by
      rw [hfixed]
      rfl
    rw [exec_write_running a d hrun, access_write_cart d hm, hdiscarded, State.setController_self]

/-- Settles O39: the trigger of WSEL_ADDR fires on writes alone, and takes its index from the offset. -/
theorem wselAddrSelectsByTheAddress : Obligations.WselAddrSelectsByTheAddress := by
  unfold Obligations.WselAddrSelectsByTheAddress
  intro s a d b hrun hwsel
  have hcycles := exec_cycles_writeOnlyTrigger (a := a) d hrun (by rw [hwsel]; nofun) (by rw [hwsel]; rfl)
  rw [hwsel] at hcycles
  exact hcycles

/-- Settles O40: the trigger of WSEL_DATA fires on writes alone, and takes its index from the data. -/
theorem wselDataSelectsByTheData : Obligations.WselDataSelectsByTheData := by
  unfold Obligations.WselDataSelectsByTheData
  intro s a d b hrun hwsel
  have hcycles := exec_cycles_writeOnlyTrigger (a := a) d hrun (by rw [hwsel]; nofun) (by rw [hwsel]; rfl)
  rw [hwsel] at hcycles
  exact hcycles

/-! ### The default of SELECT_MASK (41_bank_switch.md R108) -/

theorem nextPow2_isPow2 (n : Nat) : ∃ k, nextPow2 n = 2 ^ k := by
  unfold nextPow2
  split
  · exact ⟨0, rfl⟩
  · exact ⟨_, rfl⟩

theorem le_nextPow2 (n : Nat) : n ≤ nextPow2 n := by
  unfold nextPow2
  split
  · assumption
  · have := Nat.lt_log2_self (n := n - 1)
    omega

/-- No power of two at or above `n` is less than `nextPow2 n`: the one below it is at most `n - 1`. -/
theorem nextPow2_le {n j : Nat} (h : n ≤ 2 ^ j) : nextPow2 n ≤ 2 ^ j := by
  unfold nextPow2
  split
  · exact Nat.one_le_two_pow
  · next hn =>
    have hlog : Nat.log2 (n - 1) < j := (Nat.log2_lt (by omega)).mpr (by omega)
    exact Nat.pow_le_pow_right (by decide) hlog

theorem selectMask_default {cfg : Configuration} (h : cfg.selectMask = none) :
    selectMask cfg = nextPow2 cfg.bankCount - 1 := by
  rw [selectMask, h, Option.getD_none]

/-- Settles O47. The exponent is that of `nextPow2`. -/
theorem defaultSelectMaskNamesEveryBank : Obligations.DefaultSelectMaskNamesEveryBank := by
  unfold Obligations.DefaultSelectMaskNamesEveryBank
  intro cfg hdefault _
  rw [selectMask_default hdefault]
  refine ⟨?least, ?four⟩
  case least =>
    obtain ⟨k, hk⟩ := nextPow2_isPow2 cfg.bankCount
    exact ⟨k, by rw [hk], hk ▸ le_nextPow2 cfg.bankCount, fun j hj => hk ▸ nextPow2_le hj⟩
  case four =>
    intro hfour
    rw [hfour]
    decide

end Sys2Proof.Machine
end

section
/-! HOTSPOT and SNOOP: the kinds that select on read cycles too (41_bank_switch.md R109 to R112). -/

namespace Sys2Proof.Machine

/-! ### The index of a trigger -/

/-- The first pair of HOTSPOTS with the address gives the index (41_bank_switch.md R109). -/
theorem hotspotIndex_of_first {cfg : Configuration} {a : Addr} {pre post : List Hotspot} {h : Hotspot}
    (hsplit : cfg.hotspots = pre ++ h :: post) (hpre : ∀ g ∈ pre, g.addr ≠ a.toNat) (haddr : h.addr = a.toNat) :
    hotspotIndex cfg a = some h.bank := by
  have hfind : cfg.hotspots.find? (fun g => g.addr == a.toNat) = some h :=
    List.find?_eq_some_iff_append.mpr ⟨by simpa using haddr, pre, post, hsplit, by simpa using hpre⟩
  simp only [hotspotIndex, hfind]

theorem hotspotIndex_of_unlisted {cfg : Configuration} {a : Addr} (h : ∀ g ∈ cfg.hotspots, g.addr ≠ a.toNat) :
    hotspotIndex cfg a = none := by
  have hfind : cfg.hotspots.find? (fun g => g.addr == a.toNat) = none :=
    List.find?_eq_none.mpr (by simpa using h)
  simp only [hotspotIndex, hfind]

/-- At a control address every read cycle selects, and a write where HOTSPOT_ON_WRITE holds
(41_bank_switch.md R109, R111). -/
theorem hotspotStep_of_index {cfg : Configuration} {a : Addr} {x : Nat} (h : hotspotIndex cfg a = some x)
    (w : Bool) (bank : Nat) :
    hotspotStep cfg a w bank = if !w || cfg.hotspotOnWrite then x % cfg.bankCount else bank := by
  simp only [hotspotStep, h, reduceBank]

theorem hotspotStep_of_no_index {cfg : Configuration} {a : Addr} (h : hotspotIndex cfg a = none) (w : Bool)
    (bank : Nat) : hotspotStep cfg a w bank = bank := by
  simp only [hotspotStep, h, ite_self]

/-- The trigger of SNOOP reads nothing but the address (41_bank_switch.md R112). -/
theorem trigger_snoop (cfg : Configuration) (a : Addr) (w : Bool) (d : Byte) (b : Nat) :
    trigger cfg a w d (.snoop b) = .snoop (if a.toNat &&& cfg.snoopMask = cfg.snoopMatch
      then ((a.toNat >>> cfg.snoopShift) &&& cfg.snoopSelect) % cfg.bankCount else b) := by
  simp only [trigger, snoopHit, beq_iff_eq, reduceBank, snoopIndex]

/-! ### The cycles of any kind but PAGED_RAM -/

variable {s : State} {a : Addr}

/-- A READ or FETCH leaves what its trigger leaves, and its answer is the owner's against that, in the
window the byte of the bank it leaves selected (41_bank_switch.md R103). -/
theorem exec_readOrFetch_window {i : Instr} (hrun : s.status = .running) (hkind : s.controller.kind ≠ .pagedRam)
    (hi : i = .read a ∨ i = .fetch a) :
    ∃ t, exec i s = .next t ∧ t.controller = trigger s.cfg a false 0 s.controller ∧ t.ioRam = s.ioRam ∧
      ReadAnswer (s.setController t.controller) a false t.output ∧
      ∀ o, matchRegion s.cfg.regions a = some (.cart, o) → t.output =
        .read (Memory.read s.cfg.rom (t.controller.curBank * s.cfg.bankSize + o % s.cfg.bankSize)) [] := by
  obtain ⟨t, hexec, hcontroller, hioRam, hanswer⟩ := exec_readOrFetch_running hrun hi
  have hkept : (s.setController t.controller).controller.kind ≠ .pagedRam := by
    rwa [State.setController_controller, hcontroller, trigger_kind]
  exact ⟨t, hexec, hcontroller, hioRam, hanswer, fun o hm => hanswer.window hkept hm⟩

/-- A PEEK leaves the controller and shows its bank in the window. -/
theorem exec_peek_window (hrun : s.status = .running) (hkind : s.controller.kind ≠ .pagedRam) :
    ∃ t, exec (.peek a) s = .next t ∧ t.controller = s.controller ∧ ReadAnswer s a true t.output ∧
      ∀ o, matchRegion s.cfg.regions a = some (.cart, o) → t.output =
        .read (Memory.read s.cfg.rom (s.controller.curBank * s.cfg.bankSize + o % s.cfg.bankSize)) [] := by
  obtain ⟨t, hexec, hcontroller, hanswer⟩ := exec_peek_answer (a := a) hrun
  exact ⟨t, hexec, hcontroller, hanswer, fun o hm => hanswer.window hkind hm⟩

/-- Settles O41. Every cycle leaves what `hotspotStep` leaves, which is decided by whether the table
lists the address; the answers are those of any kind but PAGED_RAM. -/
theorem hotspotsSelectByAccess : Obligations.HotspotsSelectByAccess := by
  unfold Obligations.HotspotsSelectByAccess
  intro s a d b hrun hhotspot
  have hkind : s.controller.kind ≠ .pagedRam := by rw [hhotspot]; nofun
  have hsteps (w : Bool) (e : Byte) : trigger s.cfg a w e s.controller = .hotspot (hotspotStep s.cfg a w b) := by
    rw [hhotspot]
    rfl
  have hwritten : (access .write a d s).controller = .hotspot (hotspotStep s.cfg a true b) :=
    (access_write_controller s a d hkind).trans (hsteps true d)
  refine ⟨?listed, ?unlisted, ?peek⟩
  case listed =>
    intro pre h post hsplit hpre haddr
    have hindex := hotspotIndex_of_first hsplit hpre haddr
    refine ⟨fun i hi => ?reads, access .write a d s, exec_write_running a d hrun, ?write⟩
    case reads =>
      obtain ⟨t, hexec, hcontroller, -, hanswer, hwindow⟩ := exec_readOrFetch_window hrun hkind hi
      have hselected : t.controller = .hotspot (h.bank % s.cfg.bankCount) := by
        rw [hcontroller, hsteps, hotspotStep_of_index hindex]
        rfl
      refine ⟨t, hexec, hselected, hanswer, ?_⟩
      rwa [hselected] at hwindow
    case write =>
      rw [hwritten, hotspotStep_of_index hindex]
      rfl
  case unlisted =>
    intro hunlisted
    have hindex := hotspotIndex_of_unlisted hunlisted
    refine ⟨fun i hi => ?reads, access .write a d s, exec_write_running a d hrun, ?write⟩
    case reads =>
      obtain ⟨t, hexec, hcontroller, -, hanswer, hwindow⟩ := exec_readOrFetch_window hrun hkind hi
      rw [hsteps, hotspotStep_of_no_index hindex] at hcontroller
      rw [hcontroller] at hwindow
      rw [hcontroller, ← hhotspot, State.setController_self] at hanswer
      exact ⟨t, hexec, hcontroller, hanswer, hwindow⟩
    case write => rw [hwritten, hotspotStep_of_no_index hindex]
  case peek =>
    have hpeek := exec_peek_window (a := a) hrun hkind
    rw [hhotspot] at hpeek
    exact hpeek

/-- A write reaches its owner: the video chip, the I/O chip or SharedIoRam, and nobody in the window and at
an unclaimed address (41_bank_switch.md R112, 40_bus_decoder.md R82). -/
theorem access_write_reachesOwner (d : Byte) :
    (∀ o, matchRegion s.cfg.regions a = some (.video, o) →
      (access .write a d s).output = .write [.videoWrite o d] ∧ (access .write a d s).ioRam = s.ioRam) ∧
    (∀ o, matchRegion s.cfg.regions a = some (.ioreg, o) →
      (access .write a d s).output = .write [.ioWrite o d] ∧ (access .write a d s).ioRam = s.ioRam) ∧
    (∀ o, matchRegion s.cfg.regions a = some (.ioram, o) → (access .write a d s).output = .write [] ∧
      (Memory.wf s.ioRam = true → Memory.read (access .write a d s).ioRam o = d) ∧
      ∀ j, j ≠ o → Memory.read (access .write a d s).ioRam j = Memory.read s.ioRam j) ∧
    (∀ o, matchRegion s.cfg.regions a = some (.cart, o) →
      (access .write a d s).output = .write [] ∧ (access .write a d s).ioRam = s.ioRam) ∧
    (matchRegion s.cfg.regions a = none →
      (access .write a d s).output = .write [] ∧ (access .write a d s).ioRam = s.ioRam) := by
  refine ⟨fun o hm => ?video, fun o hm => ?ioreg, fun o hm => ?ioram, fun o hm => ?cart, fun hm => ?unclaimed⟩
  case video => simp [access_write_video d hm]
  case ioreg => simp [access_write_ioreg d hm]
  case ioram =>
    rw [access_write_ioram d hm]
    exact ⟨rfl, fun hwf => Memory.read_write_same hwf o d, fun j hj => Memory.read_write_other s.ioRam hj d⟩
  case cart => exact (access_write_cart_frame d hm).symm
  case unclaimed => simp [access_write_unclaimed d hm]

/-- Settles O42. Every cycle but PEEK leaves what the trigger leaves, whoever owns the address; a read's
answer is that of any kind but PAGED_RAM, and a write's effect is read off owner by owner. -/
theorem snoopSelectsOnEveryMatchingCycle : Obligations.SnoopSelectsOnEveryMatchingCycle := by
  unfold Obligations.SnoopSelectsOnEveryMatchingCycle
  intro s a d b hrun hsnoop
  have hkind : s.controller.kind ≠ .pagedRam := by rw [hsnoop]; nofun
  refine ⟨?cycles, ?peek⟩
  case cycles =>
    intro i hi
    rcases or_assoc.mpr hi with hread | rfl
    · have hnotWrite : i ≠ .write a d := by rcases hread with rfl | rfl <;> nofun
      obtain ⟨t, hexec, hcontroller, hioRam, hanswer, hwindow⟩ := exec_readOrFetch_window hrun hkind hread
      rw [hsnoop, trigger_snoop] at hcontroller
      exact ⟨t, hexec, hcontroller, fun _ => ⟨hanswer, hioRam, hwindow⟩, fun hwrite => absurd hwrite hnotWrite⟩
    · refine ⟨access .write a d s, exec_write_running a d hrun, ?_, fun hnot => absurd rfl hnot,
        fun _ => access_write_reachesOwner d⟩
      rw [access_write_controller s a d hkind, hsnoop, trigger_snoop]
  case peek =>
    have hpeek := exec_peek_window (a := a) hrun hkind
    rw [hsnoop] at hpeek
    exact hpeek

end Sys2Proof.Machine
end

section
/-! PAGED_RAM: the page register and the overlay (41_bank_switch.md R115 to R117). -/

namespace Sys2Proof.Machine

variable {cfg : Configuration} {s : State} {a : Addr} {b p o : Nat} {m : Memory}

/-- Only a WRITE changes the page (41_bank_switch.md R116). -/
theorem pageStep_read (d : Byte) : pageStep cfg a false d p = p := rfl

theorem pageStep_write (d : Byte) :
    pageStep cfg a true d p = if a.toNat = cfg.pageRegAddr then d.toNat % cfg.ramPages else p := by
  simp only [pageStep, Bool.true_and, beq_iff_eq, reducePage]

theorem inOverlay_iff : inOverlay cfg o = true ↔ cfg.ramBase ≤ o ∧ o < cfg.ramBase + cfg.ramWindow := by
  simp only [inOverlay, Bool.and_eq_true, decide_eq_true_eq]

/-- Under PAGED_RAM a WRITE leaves the bank and the page its trigger leaves, whoever owns the address. -/
theorem access_write_pagedRam (d : Byte) (hpaged : s.controller = .pagedRam b p m) :
    ∃ m', (access .write a d s).controller =
      .pagedRam (hotspotStep s.cfg a true b) (pageStep s.cfg a true d p) m' := by
  have htriggered : (triggered s a true d).controller =
      .pagedRam (hotspotStep s.cfg a true b) (pageStep s.cfg a true d p) m := by
    rw [triggered_controller, hpaged]
    rfl
  rw [access_write, State.tick_controller, State.setOutput_controller]
  rcases writeData_cases (triggered s a true d) a d with ⟨-, -, hsame⟩ | ⟨o, -, hstored⟩ | ⟨o, -, hwindow⟩
  · exact ⟨m, by rw [hsame, htriggered]⟩
  · exact ⟨m, by rw [hstored, State.setIoRam_controller, htriggered]⟩
  · exact ⟨_, by rw [hwindow, State.setController_controller, htriggered, cartWrite]⟩

/-- Settles O44. Under PAGED_RAM and under HOTSPOT the bank is `hotspotStep` of the cycle, and the page is
`pageStep`, which a window write after it does not touch. -/
theorem pageRegisterTakesTheData : Obligations.PageRegisterTakesTheData := by
  unfold Obligations.PageRegisterTakesTheData
  intro s a d b p m hrun hpaged
  have hrunHotspot : (s.setController (.hotspot b)).status = .running := hrun
  refine ⟨?write, fun i hi => ?reads, ?peek⟩
  case write =>
    obtain ⟨m', hwritten⟩ := access_write_pagedRam (a := a) d hpaged
    rw [pageStep_write] at hwritten
    exact ⟨access .write a d s, hotspotStep s.cfg a true b, m', exec_write_running a d hrun, hwritten,
      access .write a d (s.setController (.hotspot b)), exec_write_running a d hrunHotspot,
      access_write_controller _ a d nofun⟩
  case reads =>
    obtain ⟨t, hexec, hcontroller, -, hanswer⟩ := exec_readOrFetch_running hrun hi
    obtain ⟨u, hexecHotspot, hselected, -⟩ := exec_readOrFetch_running hrunHotspot hi
    rw [hpaged] at hcontroller
    exact ⟨t, hotspotStep s.cfg a false b, hexec, hcontroller, hanswer, u, hexecHotspot, hselected⟩
  case peek =>
    have hpeek := exec_peek_answer (a := a) hrun
    rw [hpaged] at hpeek
    exact hpeek

/-- At an overlay offset the window shows the page's byte (41_bank_switch.md R117). -/
theorem cartRead_overlay (ho : inOverlay cfg o = true) :
    cartRead cfg o (.pagedRam b p m) = Memory.read m (p * cfg.ramWindow + (o - cfg.ramBase)) := by
  rw [cartRead, if_pos ho, overlayIndex]

/-- Outside the overlay a window read shows the current bank (41_bank_switch.md R117). -/
theorem ReadAnswer.outsideOverlay {sed : Bool} {out : Output} (hanswer : ReadAnswer s a sed out)
    (hout : ¬(s.cfg.ramBase ≤ o ∧ o < s.cfg.ramBase + s.cfg.ramWindow))
    (hm : matchRegion s.cfg.regions a = some (.cart, o)) :
    out = .read (Memory.read s.cfg.rom (s.controller.curBank * s.cfg.bankSize + o % s.cfg.bankSize)) [] := by
  have hrom : inOverlay s.cfg o = false := Bool.eq_false_iff.mpr (mt inOverlay_iff.mp hout)
  rw [hanswer.cart hm, cartRead_outside hrom, bankByte_eq]

/-- A WRITE in the window leaves the bank and page of its trigger and is a window write of them. -/
theorem access_write_cart_pagedRam (d : Byte) (hpaged : s.controller = .pagedRam b p m)
    (hm : matchRegion s.cfg.regions a = some (.cart, o)) :
    (access .write a d s).controller =
      cartWrite s.cfg o d (.pagedRam (hotspotStep s.cfg a true b) (pageStep s.cfg a true d p) m) := by
  rw [access_write_cart d hm, hpaged]
  rfl

/-- Settles O45. A window write is that of the page its own trigger leaves; a read cycle leaves the page
and the overlay, and shows their byte or the bank its trigger left. -/
theorem overlayReadsAndWritesThePage : Obligations.OverlayReadsAndWritesThePage := by
  unfold Obligations.OverlayReadsAndWritesThePage
  intro s a d b p o m hconsistent hrun hpaged hm
  have hwritten := access_write_cart_pagedRam d hpaged hm
  refine ⟨fun hin => ⟨?overlayWrite, fun i hi => ?overlayRead⟩, fun hout => ⟨?romWrite, fun i hi => ?romRead, ?romPeek⟩⟩
  case overlayWrite =>
    have hwf : Memory.wf m = true := by
      have hlegal := hconsistent.controller
      rw [hpaged] at hlegal
      obtain ⟨-, -, hwf, -⟩ := hlegal
      exact hwf
    rw [cartWrite, if_pos (inOverlay_iff.mpr hin)] at hwritten
    exact ⟨access .write a d s, _, _, _, exec_write_running a d hrun, hwritten, pageStep_write d,
      Memory.read_write_same hwf _ d, fun j hj => Memory.read_write_other m hj d⟩
  case overlayRead =>
    have hshown (x : Nat) := cartRead_overlay (b := x) (p := p) (m := m) (inOverlay_iff.mpr hin)
    rcases or_assoc.mpr hi with hread | rfl
    · obtain ⟨t, hexec, hcontroller, -, hanswer⟩ := exec_readOrFetch_running hrun hread
      refine ⟨t, hexec, ?_⟩
      rw [hanswer.cart hm, State.setController_controller, State.setController_cfg, hcontroller, hpaged, trigger,
        pageStep_read, hshown]
    · obtain ⟨t, hexec, -, hanswer⟩ := exec_peek_answer (a := a) hrun
      exact ⟨t, hexec, by rw [hanswer.cart hm, hpaged, hshown]⟩
  case romWrite =>
    rw [cartWrite, if_neg (mt inOverlay_iff.mp hout)] at hwritten
    exact ⟨access .write a d s, _, _, exec_write_running a d hrun, hwritten⟩
  case romRead =>
    obtain ⟨t, hexec, -, -, hanswer⟩ := exec_readOrFetch_running hrun hi
    exact ⟨t, hexec, hanswer.outsideOverlay hout hm⟩
  case romPeek =>
    obtain ⟨t, hexec, -, hanswer⟩ := exec_peek_answer (a := a) hrun
    have hshown := hanswer.outsideOverlay hout hm
    rw [hpaged] at hshown
    exact ⟨t, hexec, hshown⟩

end Sys2Proof.Machine
end

section
/-! The open-bus value (42_open_bus.md R130 to R135) and the two places a read cycle shows it: the result at
an unclaimed address, and the byte handed to the video chip (40_bus_decoder.md R84, R89). -/

namespace Sys2Proof.Machine

variable {s u : State} {a : Addr} {o : Nat} {i : Instr} {sed : Bool} {out : Output}

/-! ### The answer of a read cycle that shows the open-bus value -/

/-- At an unclaimed address the answer is the open-bus value (40_bus_decoder.md R84). -/
theorem ReadAnswer.unclaimed (hanswer : ReadAnswer s a sed out) (hm : matchRegion s.cfg.regions a = none) :
    out = .read (openBus s a).1 (openBus s a).2 := by
  simpa only [ReadAnswer, hm] using hanswer

/-- The video chip is handed the open-bus byte (40_bus_decoder.md R89). -/
theorem ReadAnswer.video (hanswer : ReadAnswer s a sed out)
    (hm : matchRegion s.cfg.regions a = some (.video, o)) :
    ∃ v, out = .read v ((openBus s a).2 ++ [.videoRead o (openBus s a).1 sed v]) := by
  simpa only [ReadAnswer, hm] using hanswer

/-- A read cycle, with the `sed` it decodes by and the state it answers against: a READ or FETCH the state
its trigger leaves, a PEEK the state it finds (40_bus_decoder.md R81, R83, R85). -/
theorem exec_readCycle_answer (hrun : s.status = .running)
    (hi : (i, sed, u) ∈ [(Instr.read a, false, s.setController (trigger s.cfg a false 0 s.controller)),
      (.fetch a, false, s.setController (trigger s.cfg a false 0 s.controller)), (.peek a, true, s)]) :
    u.cfg = s.cfg ∧ ∃ t, exec i s = .next t ∧ ReadAnswer u a sed t.output := by
  have readOrFetch {j : Instr} (hj : j = .read a ∨ j = .fetch a) : ∃ t, exec j s = .next t ∧
      ReadAnswer (s.setController (trigger s.cfg a false 0 s.controller)) a false t.output := by
    obtain ⟨t, hexec, hcontroller, -, hanswer⟩ := exec_readOrFetch_running hrun hj
    exact ⟨t, hexec, hcontroller ▸ hanswer⟩
  simp only [List.mem_cons, Prod.mk.injEq, List.not_mem_nil, or_false] at hi
  rcases hi with ⟨rfl, rfl, rfl⟩ | ⟨rfl, rfl, rfl⟩ | ⟨rfl, rfl, rfl⟩
  · exact ⟨rfl, readOrFetch (.inl rfl)⟩
  · exact ⟨rfl, readOrFetch (.inr rfl)⟩
  · obtain ⟨t, hexec, -, hanswer⟩ := exec_peek_answer (a := a) hrun
    exact ⟨rfl, t, hexec, hanswer⟩

/-! ### The value -/

/-- Settles O49. The value is read off the resolver step by step; a read cycle's answer is the owner's
against the state the trigger left, whose region table is the one the cycle found. -/
theorem openBusFollowsTheFourSteps : Obligations.OpenBusFollowsTheFourSteps := by
  unfold Obligations.OpenBusFollowsTheFourSteps
  refine ⟨fun s a => ⟨openBus_step1 a, fun hundriven => ⟨openBus_step2 a hundriven, fun hpast2 =>
    ⟨openBus_variant a hundriven hpast2, fun hpastVariant => ?steps34⟩⟩⟩, fun s u a i sed hrun hi => ?cycles⟩
  case steps34 =>
    rw [openBus_step34 a hundriven hpast2 hpastVariant]
    constructor
    · intro hindirect
      rw [if_pos hindirect]
      exact peekOne_answer s (peekAddr s.trace.lastByte)
    · exact fun hother => if_neg hother
  case cycles =>
    obtain ⟨hcfg, t, hexec, hanswer⟩ := exec_readCycle_answer hrun hi
    rw [← hcfg]
    constructor
    · exact fun hm => ⟨t, hexec, hanswer.unclaimed hm⟩
    · intro o hm
      obtain ⟨v, hv⟩ := hanswer.video hm
      exact ⟨t, v, hexec, hv⟩

end Sys2Proof.Machine
end

section
/-! VSYNC events (43_display_timing.md R140 to R143, R146): what one event does by the best match of its
interval, and what a run of events with one best match does. -/

namespace Sys2Proof.Machine

variable {s : State} {n best : Lines} {ns : List Lines}

/-! ### One event -/

theorem exec_vsync_running (n : Lines) (hrun : s.status = .running) : exec (.vsync n) s = .next (observe n s) :=
  execVsync_running n hrun

/-- With no best match the geometry stays and nothing commits (43_display_timing.md R142). -/
theorem observe_unmatched (hnone : bestMatch n s.cfg.dtCandidates = none) :
    (observe n s).geometry = s.geometry ∧ (observe n s).output = .vsync false := by
  simp [observe, observedGeometry, commitFlag, hnone]

/-- The best match becomes the geometry, and commits where it differs from it (43_display_timing.md
R142). -/
theorem observe_matched (hbest : bestMatch n s.cfg.dtCandidates = some best) :
    (observe n s).geometry = best ∧ (observe n s).output = .vsync (decide (best ≠ s.geometry)) := by
  simp [observe, observedGeometry, commitFlag, hbest]

/-- Settles O52. A RUNNING session answers with `observe`, and the statement's two cases are those of the
best match: none where every candidate is too far, and the nearest and least candidate where that one is
within the tolerance. -/
theorem vsyncCommitsTheNearestCandidate : Obligations.VsyncCommitsTheNearestCandidate := by
  unfold Obligations.VsyncCommitsTheNearestCandidate
  intro s n hrun
  refine ⟨observe n s, exec_vsync_running n hrun, fun hfar => ?unmatched, fun best hmem hnear hleast => ?matched⟩
  case unmatched => exact observe_unmatched (bestMatch_none.mpr hfar)
  case matched =>
    obtain ⟨hgeometry, houtput⟩ := observe_matched (bestMatch_eq hmem hnear hleast)
    exact ⟨hgeometry, fun hdiffers => by rw [houtput, decide_eq_true hdiffers],
      fun hsame => by rw [houtput, decide_eq_false (not_not_intro hsame)]⟩

/-! ### A run of events that all have one best match -/

theorem commitCount_cons (hrun : s.status = .running) : commitCount (n :: ns) s =
    (if (observe n s).output = .vsync true then 1 else 0) + commitCount ns (observe n s) := by
  rw [commitCount, exec_vsync_running n hrun]

theorem execAll_vsync_cons (hrun : s.status = .running) :
    execAll ((n :: ns).map .vsync) s = execAll (ns.map .vsync) (observe n s) := by
  rw [List.map_cons, execAll, exec_vsync_running n hrun]

/-- Only the first event can commit: after it the geometry is the best match of all the others. -/
theorem commitCount_eq (hrun : s.status = .running)
    (hbest : ∀ n ∈ ns, bestMatch n s.cfg.dtCandidates = some best) :
    commitCount ns s = if ns ≠ [] ∧ s.geometry ≠ best then 1 else 0 := by
  induction ns generalizing s with
  | nil => rfl
  | cons n ns ih =>
    obtain ⟨hgeometry, houtput⟩ := observe_matched (hbest n List.mem_cons_self)
    have hrest : commitCount ns (observe n s) = 0 := by
      rw [ih (s := observe n s) hrun fun m hm => hbest m (List.mem_cons_of_mem n hm),
        if_neg fun h => h.2 hgeometry]
    rw [commitCount_cons hrun, hrest, houtput]
    simp [eq_comm (a := best)]

/-- A run of events ends in a next state, whose geometry is the best match as soon as there is an event. -/
theorem execAll_vsync (hrun : s.status = .running)
    (hbest : ∀ n ∈ ns, bestMatch n s.cfg.dtCandidates = some best) :
    ∃ t, execAll (ns.map .vsync) s = .next t ∧ (ns ≠ [] ∨ s.geometry = best → t.geometry = best) := by
  induction ns generalizing s with
  | nil => exact ⟨s, rfl, fun h => h.resolve_left fun hne => hne rfl⟩
  | cons n ns ih =>
    obtain ⟨hgeometry, -⟩ := observe_matched (hbest n List.mem_cons_self)
    obtain ⟨t, hexec, hkept⟩ := ih (s := observe n s) hrun fun m hm => hbest m (List.mem_cons_of_mem n hm)
    exact ⟨t, (execAll_vsync_cons hrun).trans hexec, fun _ => hkept (.inr hgeometry)⟩

/-! ### The reference candidates -/

/-- An interval within 3 of 262 has 262 as its best match: the other candidates are more than 3 away. -/
theorem bestMatch_reference_near262 (hlow : 259 ≤ n.toNat) (hhigh : n.toNat ≤ 265) :
    bestMatch n [262, 312, 328, 342] = some 262 := by
  have hothers : ∀ c ∈ ([312, 328, 342] : List Lines), 312 ≤ c.toNat := by simp
  have hdistance : distance n 262 ≤ dtTolerance := by
    simp only [distance, dtTolerance, BitVec.reduceToNat]
    omega
  refine bestMatch_eq List.mem_cons_self hdistance
    (List.forall_mem_cons.mpr ⟨.inr ⟨rfl, le_rfl⟩, fun c hc => .inl ?_⟩)
  have hfar := hothers c hc
  simp only [distance, dtTolerance] at hdistance ⊢
  omega

theorem bestMatch_reference_500 : bestMatch 500 [262, 312, 328, 342] = none := by decide

/-- Settles O54. Every pulse has 262 as its best match, so the run's count and its last geometry are those
of a run with one best match; 500 has none. -/
theorem pulsesNear262CommitOnce : Obligations.PulsesNear262CommitOnce := by
  unfold Obligations.PulsesNear262CommitOnce
  intro s ns hrun hcandidates hnear
  have hbest : ∀ n ∈ ns, bestMatch n s.cfg.dtCandidates = some 262 := fun n hn => by
    obtain ⟨hlow, hhigh⟩ := hnear n hn
    rw [hcandidates, bestMatch_reference_near262 hlow hhigh]
  have hcount := commitCount_eq hrun hbest
  obtain ⟨t, hexec, hgeometry⟩ := execAll_vsync hrun hbest
  refine ⟨fun hsome hother => ?once, fun hsame => ?never, fun hsome => ?after, ?spurious⟩
  case once => rw [hcount, if_pos ⟨hsome, hother⟩]
  case never => rw [hcount, if_neg fun h => h.2 hsame]
  case after => exact ⟨t, hexec, hgeometry (.inl hsome)⟩
  case spurious =>
    have hnone : bestMatch 500 s.cfg.dtCandidates = none := by rw [hcandidates, bestMatch_reference_500]
    exact ⟨observe 500 s, exec_vsync_running 500 hrun, observe_unmatched hnone⟩

end Sys2Proof.Machine
end

section
/-! VSYNC events and bus cycles do not affect each other (43_display_timing.md R145). -/

namespace Sys2Proof.Machine

variable {s t u : State} {n : Lines} {i : Instr}

/-! ### What an event changes and what it depends on -/

theorem exec_vsync_next (hexec : exec (.vsync n) s = .next t) : t = observe n s :=
  (whenRunning_next hexec).2.symm

/-- An event writes the geometry, its output and the turn alone (43_display_timing.md R143). -/
theorem observe_frame (n : Lines) (s : State) : SameSession s (observe n s) ∧
    (observe n s).controller = s.controller ∧ (observe n s).ioRam = s.ioRam ∧ (observe n s).trace = s.trace :=
  ⟨⟨rfl, rfl, rfl, rfl, rfl⟩, rfl, rfl, rfl⟩

/-- The candidates and the geometry decide the new geometry and the output. -/
theorem observe_congr (n : Lines) (hcandidates : s.cfg.dtCandidates = u.cfg.dtCandidates)
    (hgeometry : s.geometry = u.geometry) :
    (observe n s).geometry = (observe n u).geometry ∧ (observe n s).output = (observe n u).output := by
  simp [observe, observedGeometry, commitFlag, hcandidates, hgeometry]

/-! ### Bus cycles commute with a change of the geometry -/

/-- A bus cycle is an `Access` or the refusal of a reserved kind, behind the status gate. -/
theorem exec_busCycle (hi : isBusCycle i = true) :
    (∃ k a d, ∀ s, exec i s = whenRunning s (access k a d s)) ∨
    ∃ c, ∀ s, exec i s = whenRunning s (refuseCycle c s) := by
  cases i with
  | read a => exact .inl ⟨.read, a, 0, fun _ => rfl⟩
  | write a d => exact .inl ⟨.write, a, d, fun _ => rfl⟩
  | fetch a => exact .inl ⟨.fetch, a, 0, fun _ => rfl⟩
  | peek a => exact .inl ⟨.peek, a, 0, fun _ => rfl⟩
  | reservedK011 a d => exact .inr ⟨descriptorOf 0b011 a d, fun _ => rfl⟩
  | reservedK101 a d => exact .inr ⟨descriptorOf 0b101 a d, fun _ => rfl⟩
  | reservedK110 a d => exact .inr ⟨descriptorOf 0b110 a d, fun _ => rfl⟩
  | reservedK111 a d => exact .inr ⟨descriptorOf 0b111 a d, fun _ => rfl⟩
  | vsync _ | start _ | schemeFixed | schemeWselAddr | schemeWselData | schemeHotspot | schemeSnoop
  | schemePagedRam | schemeUnknown _ => cases hi

theorem writeData_setGeometry (s : State) (g : Lines) (a : Addr) (d : Byte) :
    writeData (s.setGeometry g) a d = (writeData s a d).setGeometry g := by
  rcases hm : matchRegion s.cfg.regions a with _ | ⟨w, o⟩
  · simp only [writeData, State.setGeometry_cfg, hm]
  · cases w <;> simp only [writeData, State.setGeometry_cfg, hm] <;> rfl

/-- No phase of a cycle reads or writes the geometry (40_bus_decoder.md R80). -/
theorem access_setGeometry (k : CycleKind) (a : Addr) (d : Byte) (s : State) (g : Lines) :
    access k a d (s.setGeometry g) = (access k a d s).setGeometry g := by
  cases k with
  | read | fetch | peek => rfl
  | write =>
    have hphase2 := writeData_setGeometry (triggered s a true d) g a d
    have hphase1 : triggered (s.setGeometry g) a true d = (triggered s a true d).setGeometry g := rfl
    rw [access_write, access_write, hphase1, hphase2]
    rfl

/-- Settles O53. An event is `observe`. A bus cycle is an `Access` or a refusal, each of which leaves the
geometry and commutes with a change of it; the status gate does not look at it. -/
theorem displayAndBusAreIndependent : Obligations.DisplayAndBusAreIndependent := by
  unfold Obligations.DisplayAndBusAreIndependent
  refine ⟨fun s t n hexec => ?frame, fun s u t t' n hcandidates hgeometry hexec hexec' => ?dependence,
    fun s t g i hi hexec => ?bus⟩
  case frame =>
    rw [exec_vsync_next hexec]
    exact observe_frame n s
  case dependence =>
    rw [exec_vsync_next hexec, exec_vsync_next hexec']
    exact observe_congr n hcandidates hgeometry
  case bus =>
    rcases exec_busCycle hi with ⟨k, a, d, hcycle⟩ | ⟨c, hreserved⟩
    · obtain ⟨hrun, rfl⟩ := whenRunning_next ((hcycle s).symm.trans hexec)
      obtain ⟨-, -, -, hgeometry, -⟩ := access_frame s a d k
      exact ⟨hgeometry, by rw [hcycle, access_setGeometry]; exact whenRunning_running _ hrun⟩
    · obtain ⟨hrun, rfl⟩ := whenRunning_next ((hreserved s).symm.trans hexec)
      exact ⟨rfl, (hreserved _).trans (whenRunning_running _ hrun)⟩

end Sys2Proof.Machine
end

section
/-! START with an id of no scheme (60_exceptions.md R152), with the status gate of every input
(10_state.md R32). -/

namespace Sys2Proof.Machine

variable {s : State} {r : RefuseReason} {rec : StartRecord}

/-- Every input stands behind the status gate, whatever it does in a RUNNING session. -/
theorem exec_eq_whenRunning (i : Instr) (s : State) : ∃ t, exec i s = whenRunning s t := by
  cases i <;> exact ⟨_, rfl⟩

/-- No input has a step in a REFUSED session (10_state.md R32). -/
theorem exec_refused (i : Instr) (hrefused : s.status = .refused r) : exec i s = .fault (.sessionRefused r) := by
  obtain ⟨t, hgate⟩ := exec_eq_whenRunning i s
  rw [hgate, whenRunning_refused t hrefused]

theorem exec_start_running (rec : StartRecord) (hrun : s.status = .running) :
    exec (.start rec) s = .next (startSession rec s) :=
  whenRunning_running _ hrun

/-- The id is looked up before any check of the record (60_exceptions.md R158). -/
theorem startSession_unknown (s : State) (hid : 6 ≤ rec.schemeId.toNat) :
    startSession rec s = (refuseSession (.unknownMappingScheme rec.schemeId) rec s).tick := by
  simp only [startSession, kindOfId_none hid]

/-- Settles O18. START answers the refusal with the id, for which no check of the record is consulted,
and the gate of that refused session faults every input. -/
theorem unknownSchemeIsRefusedFirst : Obligations.UnknownSchemeIsRefusedFirst := by
  unfold Obligations.UnknownSchemeIsRefusedFirst
  intro s rec hrun hid
  have hstatus : (startSession rec s).status = .refused (.unknownMappingScheme rec.schemeId) := by
    rw [startSession_unknown s hid]
    rfl
  exact ⟨startSession rec s, exec_start_running rec hrun, hstatus, rfl, fun i => exec_refused i hstatus⟩

end Sys2Proof.Machine
end

section
/-! The round trip of encoding and decoding, and the step that runs an input (00_scope.md R5,
30_encoding.md R61 to R66). -/

namespace Sys2Proof

open Machine

/-- The word of a well-formed instruction decodes to it: the round trip of each row of the opcode table. -/
theorem decode_encode (i : Instr) (hwf : i.wf = true) : decode (encode i) = i := by
  cases i with
  | read a => exact Laws.RoundTrip.read a hwf
  | write a d => exact Laws.RoundTrip.write a d hwf
  | fetch a => exact Laws.RoundTrip.fetch a hwf
  | peek a => exact Laws.RoundTrip.peek a hwf
  | reservedK011 a d => exact Laws.RoundTrip.reservedK011 a d hwf
  | reservedK101 a d => exact Laws.RoundTrip.reservedK101 a d hwf
  | reservedK110 a d => exact Laws.RoundTrip.reservedK110 a d hwf
  | reservedK111 a d => exact Laws.RoundTrip.reservedK111 a d hwf
  | vsync n => exact Laws.RoundTrip.vsync n hwf
  | start rec => exact Laws.RoundTrip.start rec hwf
  | schemeFixed => exact Laws.RoundTrip.schemeFixed hwf
  | schemeWselAddr => exact Laws.RoundTrip.schemeWselAddr hwf
  | schemeWselData => exact Laws.RoundTrip.schemeWselData hwf
  | schemeHotspot => exact Laws.RoundTrip.schemeHotspot hwf
  | schemeSnoop => exact Laws.RoundTrip.schemeSnoop hwf
  | schemePagedRam => exact Laws.RoundTrip.schemePagedRam hwf
  | schemeUnknown id => exact Laws.RoundTrip.schemeUnknown id hwf

/-- Settles O4: `decode_encode`, row by row. -/
theorem decodeAfterEncodeIsIdentity : Obligations.DecodeAfterEncodeIsIdentity := by
  unfold Obligations.DecodeAfterEncodeIsIdentity
  exact decode_encode

/-- Settles O1: thirteen literal words, each decoded by evaluation. -/
theorem specWordsDecode : Obligations.SpecWordsDecode := by
  unfold Obligations.SpecWordsDecode
  decide

/-- The step executes the input it takes from the port, on the state without it. -/
theorem step_of_takeInput {s t : State} {x : Input} (htake : takeInput s = some (x, t)) :
    step s = exec (decode x) t := by
  simp only [step, htake]

/-- Settles O2: what the port gives decides the step. -/
theorem stepRunsTheDecodedInput : Obligations.StepRunsTheDecodedInput := by
  unfold Obligations.StepRunsTheDecodedInput
  intro s
  constructor
  · exact fun x rest hinputs => step_of_takeInput (takeInput_cons hinputs)
  · intro hinputs
    simp only [step, takeInput_nil hinputs]

/-- Settles O3: the input put at the port is the one taken, and its word decodes to the instruction. -/
theorem stepRunsTheEncodedInstruction : Obligations.StepRunsTheEncodedInstruction := by
  unfold Obligations.StepRunsTheEncodedInstruction
  intro i s hwf
  rw [step_of_takeInput (takeInput_placeInput (encode i) s), decode_encode i hwf]

end Sys2Proof
end

section
/-! Every step keeps consistency (10_state.md R24, R25, R28, R30), with the inversion of `exec` that the
statements about all inputs share. -/

namespace Sys2Proof.Machine

variable {s t : State} {i : Instr}

/-! ### What an input can do -/

theorem next_of_whenRunning {u : State} (hgate : whenRunning s u = .next t) : t = u :=
  (whenRunning_next hgate).2.symm

/-- The row of a bus cycle that has a step (30_encoding.md R62). -/
def cycleInstr : CycleKind → Addr → Byte → Instr
  | .read, a, _ => .read a
  | .write, a, d => .write a d
  | .fetch, a, _ => .fetch a
  | .peek, a, _ => .peek a

theorem isReserved_cycleInstr (k : CycleKind) (a : Addr) (d : Byte) : isReserved (cycleInstr k a d) = false := by
  cases k <;> rfl

/-- An input inside a session is an `Access`, the refusal of a reserved kind, or a VSYNC event. -/
theorem exec_inSession_cases (hi : startsSession i = false) (hexec : exec i s = .next t) :
    (∃ k a d, i = cycleInstr k a d ∧ t = access k a d s) ∨
    (isReserved i = true ∧ ∃ c, t = refuseCycle c s) ∨
    ∃ n, i = .vsync n ∧ t = observe n s := by
  cases i with
  | read a => exact .inl ⟨.read, a, 0, rfl, next_of_whenRunning hexec⟩
  | write a d => exact .inl ⟨.write, a, d, rfl, next_of_whenRunning hexec⟩
  | fetch a => exact .inl ⟨.fetch, a, 0, rfl, next_of_whenRunning hexec⟩
  | peek a => exact .inl ⟨.peek, a, 0, rfl, next_of_whenRunning hexec⟩
  | reservedK011 a d => exact .inr (.inl ⟨rfl, _, next_of_whenRunning hexec⟩)
  | reservedK101 a d => exact .inr (.inl ⟨rfl, _, next_of_whenRunning hexec⟩)
  | reservedK110 a d => exact .inr (.inl ⟨rfl, _, next_of_whenRunning hexec⟩)
  | reservedK111 a d => exact .inr (.inl ⟨rfl, _, next_of_whenRunning hexec⟩)
  | vsync n => exact .inr (.inr ⟨n, rfl, exec_vsync_next hexec⟩)
  | start _ | schemeFixed | schemeWselAddr | schemeWselData | schemeHotspot | schemeSnoop | schemePagedRam
  | schemeUnknown _ => cases hi

/-- An input that starts a session is START with some record (30_encoding.md R66). -/
theorem exec_startsSession (hi : startsSession i = true) (s : State) :
    ∃ rec, exec i s = exec (.start rec) s := by
  cases i with
  | start rec => exact ⟨rec, rfl⟩
  | schemeFixed => exact ⟨declareScheme s.record 0, rfl⟩
  | schemeWselAddr => exact ⟨declareScheme s.record 1, rfl⟩
  | schemeWselData => exact ⟨declareScheme s.record 2, rfl⟩
  | schemeHotspot => exact ⟨declareScheme s.record 3, rfl⟩
  | schemeSnoop => exact ⟨declareScheme s.record 4, rfl⟩
  | schemePagedRam => exact ⟨declareScheme s.record 5, rfl⟩
  | schemeUnknown id => exact ⟨declareScheme s.record id, rfl⟩
  | read _ | write _ _ | fetch _ | peek _ | reservedK011 _ _ | reservedK101 _ _ | reservedK110 _ _
  | reservedK111 _ _ | vsync _ => cases hi

theorem exec_next_running (hexec : exec i s = .next t) : s.status = .running := by
  obtain ⟨u, hgate⟩ := exec_eq_whenRunning i s
  exact (whenRunning_next (hgate.symm.trans hexec)).1

theorem exec_start_next {rec : StartRecord} (hexec : exec (.start rec) s = .next t) : t = startSession rec s :=
  next_of_whenRunning hexec

/-! ### What a consistent state says of its configuration -/

/-- The configuration in force meets the rules' conditions (20_memory.md R41, 41_bank_switch.md R101). -/
theorem State.Consistent.legal (h : s.Consistent) :
    LegalTable s.cfg.regions ∧ LegalKind s.cfg s.controller.kind := by
  obtain ⟨hchecks, -, -⟩ := h.config
  rw [firstFailing_none] at hchecks
  simp only [configurationChecks, List.forall_mem_append, tableChecks_iff, kindChecks_iff] at hchecks
  obtain ⟨htable, ⟨-, hkind⟩, -⟩ := hchecks
  exact ⟨htable, hkind⟩

/-- SharedIoRam has a byte for every offset of the IORAM region (20_memory.md R41 W5). -/
theorem State.Consistent.ioRamOffset_lt (h : s.Consistent) {a : Addr} {o : Nat}
    (hm : matchRegion s.cfg.regions a = some (.ioram, o)) : o < ioRamSize := by
  obtain ⟨r, hr, howner, hclaims, rfl⟩ := matchRegion_some hm
  obtain ⟨⟨-, -, -, -, hsize, -⟩, -⟩ := h.legal
  exact Nat.lt_of_lt_of_le (regionOffset_lt hclaims) (hsize r hr howner)

/-! ### What keeps consistency -/

/-- Consistency speaks of the configuration, the controller and SharedIoRam alone. -/
theorem State.Consistent.of_eq (h : s.Consistent) (hcfg : t.cfg = s.cfg) (hcontroller : t.controller = s.controller)
    (hioRam : t.ioRam = s.ioRam) : t.Consistent :=
  ⟨by rw [hcfg, hcontroller]; exact h.config, by rw [hcfg, hcontroller]; exact h.controller,
    by rw [hioRam]; exact h.ioRamWf, by rw [hioRam]; exact h.ioRamWithin⟩

/-- Whatever its kind, a cycle leaves a controller of legal values: phase 1 reduces what it stores, and
a window write of phase 2 stores inside the overlay. -/
theorem access_controller_legal (h : Controller.Legal s.cfg s.controller) (k : CycleKind) (a : Addr) (d : Byte) :
    Controller.Legal s.cfg (access k a d s).controller := by
  cases k with
  | read => exact trigger_legal h a false d
  | fetch => exact trigger_legal h a false d
  | peek => exact h
  | write =>
    have htriggered := trigger_legal h a true d
    rw [access_write, State.tick_controller, State.setOutput_controller]
    rcases writeData_cases (triggered s a true d) a d with ⟨-, -, hsame⟩ | ⟨o, -, hstored⟩ | ⟨o, -, hwindow⟩
    · rwa [hsame]
    · rwa [hstored]
    · rw [hwindow]
      exact cartWrite_legal htriggered o d

theorem access_consistent (h : s.Consistent) (k : CycleKind) (a : Addr) (d : Byte) : (access k a d s).Consistent := by
  obtain ⟨-, hcfg, hkind, -⟩ := access_frame s a d k
  have hioRam : Memory.wf (access k a d s).ioRam = true ∧ Memory.within ioRamSize (access k a d s).ioRam = true := by
    rcases access_ioRam s a d k with hsame | ⟨o, -, hm, hstored⟩
    · rw [hsame]
      exact ⟨h.ioRamWf, h.ioRamWithin⟩
    · rw [hstored]
      exact ⟨Memory.write_wf h.ioRamWf o d, Memory.write_within h.ioRamWithin (h.ioRamOffset_lt hm) d⟩
  obtain ⟨hwf, hwithin⟩ := hioRam
  exact ⟨by rw [hcfg, hkind]; exact h.config, by rw [hcfg]; exact access_controller_legal h.controller k a d, hwf,
    hwithin⟩

/-- A session that starts as kind `k` starts consistent, whatever stood before it. -/
theorem openSession_consistent {rec : StartRecord} {k : Kind} (hchecks : firstFailing (startChecks rec k) = none) :
    (openSession k rec s).Consistent where
  config := by
    have hlegal := sessionConfiguration_legal hchecks
    rwa [← initialController_kind rec k] at hlegal
  controller := initialController_legal (startChecks_iff.mp hchecks)
  ioRamWf := Memory.load_wf _ _
  ioRamWithin := Memory.load_within _ _

theorem startSession_consistent (h : s.Consistent) (rec : StartRecord) : (startSession rec s).Consistent := by
  rcases startSession_cases rec s with ⟨-, hunknown⟩ | ⟨k, c, -, -, hrefused⟩ | ⟨k, -, hchecks, hopened⟩
  · rw [hunknown]
    exact h.of_eq rfl rfl rfl
  · rw [hrefused]
    exact h.of_eq rfl rfl rfl
  · rw [hopened]
    exact (openSession_consistent (s := s) hchecks).of_eq rfl rfl rfl

theorem exec_consistent (h : s.Consistent) (hexec : exec i s = .next t) : t.Consistent := by
  cases hi : startsSession i with
  | true =>
    obtain ⟨rec, hstart⟩ := exec_startsSession hi s
    rw [exec_start_next (hstart.symm.trans hexec)]
    exact startSession_consistent h rec
  | false =>
    rcases exec_inSession_cases hi hexec with ⟨k, a, d, -, rfl⟩ | ⟨-, c, rfl⟩ | ⟨n, -, rfl⟩
    · exact access_consistent h k a d
    · exact h.of_eq rfl rfl rfl
    · exact h.of_eq rfl rfl rfl

/-- A step is the execution of some input on the state without it. -/
theorem step_next_exec (hstep : step s = .next t) : ∃ i rest, exec i (s.setInputs rest) = .next t := by
  unfold step at hstep
  split at hstep
  · cases hstep
  · next x u htake =>
    obtain ⟨rest, -, rfl⟩ := takeInput_some htake
    exact ⟨decode x, rest, hstep⟩

/-- Settles O13. Taking the input changes no element consistency speaks of, and `exec` keeps it: a cycle,
a refusal and a VSYNC event inside a session, and START, which opens a consistent session or writes the
status. -/
theorem stepKeepsConsistency : Obligations.StepKeepsConsistency := by
  unfold Obligations.StepKeepsConsistency
  intro s t hconsistent hstep
  obtain ⟨i, rest, hexec⟩ := step_next_exec hstep
  have htaken : (s.setInputs rest).Consistent := hconsistent.of_eq rfl rfl rfl
  exact exec_consistent htaken hexec

end Sys2Proof.Machine
end

section
/-! The packing of a region descriptor (30_encoding.md R64). -/

namespace Sys2Proof

theorem ownerOfCode_ownerCode (w : Owner) : ownerOfCode (ownerCode w) = w := by
  cases w <;> rfl

theorem ownerCode_ownerOfCode (k : BitVec 2) : ownerCode (ownerOfCode k) = k := by
  revert k
  decide

/-! ### The fields of a packed word -/

variable (r : Region)

theorem packRegion_owner : (packRegion r).extractLsb' 0 2 = ownerCode r.owner := by
  rw [packRegion, BitVec.extractLsb'_append_eq_of_add_le (by decide),
    BitVec.extractLsb'_append_eq_of_add_le (by decide), BitVec.extractLsb'_append_eq_right]

theorem packRegion_base : (packRegion r).extractLsb' 2 13 = BitVec.ofNat 13 r.base := by
  rw [packRegion, BitVec.extractLsb'_append_eq_of_add_le (by decide),
    BitVec.extractLsb'_append_eq_of_add_le (by decide), BitVec.extractLsb'_append_eq_left]

theorem packRegion_size : (packRegion r).extractLsb' 15 14 = BitVec.ofNat 14 r.size := by
  rw [packRegion, BitVec.extractLsb'_append_eq_of_add_le (by decide), BitVec.extractLsb'_append_eq_left]

theorem packRegion_mirrorMask : (packRegion r).extractLsb' 29 13 = BitVec.ofNat 13 r.mirrorMask := by
  rw [packRegion, BitVec.extractLsb'_append_eq_left]

/-- Unpacking gives a descriptor whose fields have their widths back. -/
theorem unpackRegion_packRegion (hbase : r.base < 0x2000) (hsize : r.size ≤ 0x2000) (hmask : r.mirrorMask < 0x2000) :
    unpackRegion (packRegion r) = r := by
  rw [unpackRegion, packRegion_owner, packRegion_base, packRegion_size, packRegion_mirrorMask,
    ownerOfCode_ownerCode, BitVec.toNat_ofNat, BitVec.toNat_ofNat, BitVec.toNat_ofNat,
    Nat.mod_eq_of_lt hbase, Nat.mod_eq_of_lt (by omega), Nat.mod_eq_of_lt hmask]

/-- A word is its four fields in their places, so packing what it unpacks to puts it together again. -/
theorem packRegion_unpackRegion (w : BitVec 42) : packRegion (unpackRegion w) = w := by
  have hfields : w.extractLsb' 29 13 ++ (w.extractLsb' 15 14 ++ (w.extractLsb' 2 13 ++ w.extractLsb' 0 2)) = w := by
    rw [BitVec.extractLsb'_append_extractLsb'_eq_extractLsb' (show 2 = 0 + 2 from rfl),
      BitVec.extractLsb'_append_extractLsb'_eq_extractLsb' (show 15 = 0 + (13 + 2) from rfl),
      BitVec.extractLsb'_append_extractLsb'_eq_extractLsb' (show 29 = 0 + (14 + (13 + 2)) from rfl)]
    exact BitVec.extractLsb'_eq_self
  simpa only [packRegion, unpackRegion, ownerCode_ownerOfCode, BitVec.ofNat_toNat, BitVec.setWidth_eq] using hfields

/-- Settles O6: the four fields, and the two round trips. -/
theorem regionPackingIsFaithful : Obligations.RegionPackingIsFaithful := by
  unfold Obligations.RegionPackingIsFaithful
  refine ⟨fun r hbase hsize hmask => ⟨unpackRegion_packRegion r hbase hsize hmask, ?_⟩, packRegion_unpackRegion⟩
  rw [packRegion_owner, packRegion_base, packRegion_size, packRegion_mirrorMask, BitVec.toNat_ofNat,
    BitVec.toNat_ofNat, BitVec.toNat_ofNat]
  exact ⟨fun h => by rw [h]; rfl, fun h => by rw [h]; rfl, fun h => by rw [h]; rfl, fun h => by rw [h]; rfl,
    Nat.mod_eq_of_lt hbase, Nat.mod_eq_of_lt (by omega), Nat.mod_eq_of_lt hmask⟩

end Sys2Proof
end

section
/-! The address map (20_memory.md R42 to R46). -/

namespace Sys2Proof.Machine

/-! ### The lookup (R43) -/

/-- `Match` is the first region that claims the address, with its owner and offset. -/
theorem matchRegion_eq_find? (rs : List Region) (a : Addr) :
    matchRegion rs a = (rs.find? (claims · a)).map fun r => (r.owner, regionOffset r a) := by
  induction rs with
  | nil => rfl
  | cons r rs ih =>
    rw [matchRegion, List.find?_cons]
    cases claims r a
    · exact ih
    · rfl

theorem matchRegion_eq_some_iff {rs : List Region} {a : Addr} {w : Owner} {o : Nat} :
    matchRegion rs a = some (w, o) ↔ ∃ pre r post, rs = pre ++ r :: post ∧ r.owner = w ∧ claims r a = true ∧
      o = regionOffset r a ∧ ∀ q ∈ pre, ¬claims q a = true := by
  simp only [matchRegion_eq_find?, Option.map_eq_some_iff, List.find?_eq_some_iff_append, Prod.mk.injEq,
    Bool.not_eq_true', Bool.not_eq_true]
  constructor
  · rintro ⟨r, ⟨hclaims, pre, post, hsplit, hpre⟩, howner, hoffset⟩
    exact ⟨pre, r, post, hsplit, howner, hclaims, hoffset.symm, hpre⟩
  · rintro ⟨pre, r, post, hsplit, howner, hclaims, hoffset, hpre⟩
    exact ⟨r, ⟨hclaims, pre, post, hsplit, hpre⟩, howner, hoffset.symm⟩

theorem matchRegion_eq_none_iff {rs : List Region} {a : Addr} :
    matchRegion rs a = none ↔ ∀ q ∈ rs, ¬claims q a = true := by
  rw [matchRegion_eq_find?, Option.map_eq_none_iff, List.find?_eq_none]

/-- Settles O7. The claim and the offset are those of R42's effective address. -/
theorem matchGivesTheFirstClaimingRegion : Obligations.MatchGivesTheFirstClaimingRegion := by
  unfold Obligations.MatchGivesTheFirstClaimingRegion
  intro rs a
  constructor
  · intro w o
    simp only [matchRegion_eq_some_iff, claims_iff, and_assoc]
    rfl
  · simp only [matchRegion_eq_none_iff, claims_iff]
    rfl

/-! ### Mirrors (R42) -/

/-- The bits of the mirror mask do not reach the effective address. -/
theorem effectiveAddr_xor_mask (r : Region) (a m : Addr) :
    effectiveAddr r (a ^^^ (m &&& BitVec.ofNat 13 r.mirrorMask)) = effectiveAddr r a := by
  have hbits (x : Addr) : (a ^^^ (m &&& x)) &&& ~~~x = a &&& ~~~x := by
    ext k hk
    simp only [BitVec.getElem_and, BitVec.getElem_xor, BitVec.getElem_not]
    cases x[k] <;> simp
  rw [effectiveAddr, hbits, effectiveAddr]

/-- Settles O8: the effective address decides both the claim and the offset. -/
theorem mirrorsAreOneLocation : Obligations.MirrorsAreOneLocation := by
  unfold Obligations.MirrorsAreOneLocation
  intro r a m
  have heffective := effectiveAddr_xor_mask r a m
  exact ⟨by rw [claims, claims, heffective], by rw [regionOffset, regionOffset, heffective]⟩

/-! ### Stride and window (R46) -/

/-- The mask of stride `2^i` in a window of `2^j` has the bits `i` to `j - 1`. -/
theorem strideMask_testBit {i j : Nat} (hij : i ≤ j) (k : Nat) :
    (strideMask (2 ^ i) (2 ^ j)).testBit k = (decide (i ≤ k) && decide (k < j)) := by
  simp only [strideMask, Nat.testBit_xor, Nat.testBit_and, Nat.testBit_two_pow_sub_one]
  by_cases hki : k < i
  · simp [hki, Nat.lt_of_lt_of_le hki hij]
  · simp [hki, Nat.le_of_not_lt hki]

/-- An address bit reaches the effective address unless the mask has it. -/
theorem effectiveAddr_testBit (r : Region) (a : Addr) (k : Nat) :
    (effectiveAddr r a).testBit k = (a.toNat.testBit k && !r.mirrorMask.testBit k) := by
  rw [effectiveAddr, BitVec.testBit_toNat, BitVec.testBit_toNat, BitVec.getLsbD_and, BitVec.getLsbD_not,
    BitVec.getLsbD_ofNat]
  by_cases hk : k < 13
  · simp [hk]
  · simp [hk, BitVec.getLsbD_of_ge a k (Nat.le_of_not_lt hk)]

theorem mod_two_pow_lt {i j : Nat} (hij : i ≤ j) (x : Nat) : x % 2 ^ i < 2 ^ j :=
  Nat.lt_of_lt_of_le (Nat.mod_lt _ (Nat.two_pow_pos i)) (Nat.pow_le_pow_right (by decide) hij)

/-- The effective address keeps the window and the place in the stride. -/
theorem effectiveAddr_stride {r : Region} {i j : Nat} (hij : i ≤ j) (hmask : r.mirrorMask = strideMask (2 ^ i) (2 ^ j))
    (a : Addr) : effectiveAddr r a = 2 ^ j * (a.toNat / 2 ^ j) + a.toNat % 2 ^ i := by
  apply Nat.eq_of_testBit_eq
  intro k
  rw [effectiveAddr_testBit, hmask, strideMask_testBit hij, Nat.testBit_two_pow_mul_add _ (mod_two_pow_lt hij _)]
  by_cases hkj : k < j
  · by_cases hki : k < i
    · simp [hkj, hki, Nat.testBit_mod_two_pow]
    · simp [hkj, hki, Nat.testBit_mod_two_pow, Nat.le_of_not_lt hki]
  · rw [if_neg hkj, Nat.testBit_div_two_pow, Nat.sub_add_cancel (Nat.le_of_not_lt hkj)]
    simp [hkj]

/-- Settles O9. The effective address is a number in base `2^j` whose digits are the window and the place
in the stride, so it determines both. -/
theorem strideAndWindowGiveTheMask : Obligations.StrideAndWindowGiveTheMask := by
  unfold Obligations.StrideAndWindowGiveTheMask
  refine ⟨by decide, fun i j k hij => strideMask_testBit hij k, fun r i j a b hij _ hmask =>
    ⟨effectiveAddr_stride hij hmask a, ?_⟩⟩
  rw [effectiveAddr_stride hij hmask, effectiveAddr_stride hij hmask]
  constructor
  · intro heq
    have hdiv := congrArg (· / 2 ^ j) heq
    have hmod := congrArg (· % 2 ^ j) heq
    simp only [Nat.mul_add_div (Nat.two_pow_pos j), Nat.div_eq_of_lt (mod_two_pow_lt hij _), Nat.add_zero] at hdiv
    simp only [Nat.mul_add_mod, Nat.mod_eq_of_lt (mod_two_pow_lt hij _)] at hmod
    exact ⟨hdiv, hmod⟩
  · rintro ⟨hwindow, hplace⟩
    rw [hwindow, hplace]

end Sys2Proof.Machine
end

section
/-! The reference map by address bits (20_memory.md R45). -/

namespace Sys2Proof.Machine

variable {r : Region} {n q : Nat}

/-! ### An aligned region claims by the bits above its size -/

/-- A region of `2^n` addresses on a multiple of `2^n` claims one block of effective addresses. -/
theorem claims_iff_div (hsize : r.size = 2 ^ n) (hbase : r.base = 2 ^ n * q) (a : Addr) :
    claims r a = true ↔ effectiveAddr r a / 2 ^ n = q := by
  have hpos := Nat.two_pow_pos n
  rw [claims_iff, Nat.div_eq_iff hpos, Nat.mul_comm q, ← hbase, hsize]
  omega

/-- A mask with no bit below `n` leaves the last `n` bits of the address. -/
theorem effectiveAddr_mod_of_mask (hmask : r.mirrorMask % 2 ^ n = 0) (a : Addr) :
    effectiveAddr r a % 2 ^ n = a.toNat % 2 ^ n := by
  apply Nat.eq_of_testBit_eq
  intro k
  have hbit := congrArg (Nat.testBit · k) hmask
  simp only [Nat.testBit_mod_two_pow, Nat.zero_testBit] at hbit
  rw [Nat.testBit_mod_two_pow, Nat.testBit_mod_two_pow, effectiveAddr_testBit]
  cases hk : decide (k < n)
  · rfl
  · rw [hk, Bool.true_and] at hbit
    rw [hbit, Bool.not_false, Bool.and_true]

/-- The offset in such a region, where its mask has no bit below `n`, is the address's place in the block. -/
theorem regionOffset_eq_mod (hsize : r.size = 2 ^ n) (hbase : r.base = 2 ^ n * q) (hmask : r.mirrorMask % 2 ^ n = 0)
    {a : Addr} (hclaims : claims r a = true) : regionOffset r a = a.toNat % 2 ^ n := by
  have hblock := Nat.div_add_mod (effectiveAddr r a) (2 ^ n)
  rw [(claims_iff_div hsize hbase a).mp hclaims, ← hbase, effectiveAddr_mod_of_mask hmask] at hblock
  rw [regionOffset]
  omega

/-- Such a region claims an address whose bits from `n` on, less those of the mask, are the base's. -/
theorem claims_iff_bits (hsize : r.size = 2 ^ n) (hbase : r.base = 2 ^ n * q) (hlt : r.base < 2 ^ 13) (a : Addr) :
    claims r a = true ↔
      ∀ k ∈ List.range' n (13 - n), (a.getLsbD k && !r.mirrorMask.testBit k) = r.base.testBit k := by
  have hquotient : r.base / 2 ^ n = q := by rw [hbase, Nat.mul_div_cancel_left q (Nat.two_pow_pos n)]
  rw [claims_iff_div hsize hbase, ← hquotient]
  simp only [List.mem_range'_1]
  constructor
  · intro heq k ⟨hk, _⟩
    have hbit := congrArg (Nat.testBit · (k - n)) heq
    simpa only [Nat.testBit_div_two_pow, Nat.sub_add_cancel hk, effectiveAddr_testBit, BitVec.testBit_toNat] using hbit
  · intro hbits
    apply Nat.eq_of_testBit_eq
    intro k
    rw [Nat.testBit_div_two_pow, Nat.testBit_div_two_pow, effectiveAddr_testBit, BitVec.testBit_toNat]
    by_cases hk : k + n < 13
    · exact hbits (k + n) (by omega)
    · rw [BitVec.getLsbD_of_ge a (k + n) (Nat.le_of_not_lt hk), Bool.false_and, Nat.testBit_lt_two_pow]
      exact Nat.lt_of_lt_of_le hlt (Nat.pow_le_pow_right (by decide) (Nat.le_of_not_lt hk))

/-! ### The four regions -/

variable (a : Addr)

theorem claims_video : claims ⟨.video, 0x0000, 0x0080, 0x0F00⟩ a = (!a.getLsbD 12 && !a.getLsbD 7) := by
  rw [Bool.eq_iff_iff, claims_iff_bits (n := 7) (q := 0) rfl rfl (by decide)]
  simp [List.range', Nat.testBit, and_comm]

theorem claims_ioram : claims ⟨.ioram, 0x0080, 0x0080, 0x0D00⟩ a =
    (!a.getLsbD 12 && a.getLsbD 7 && !a.getLsbD 9) := by
  rw [Bool.eq_iff_iff, claims_iff_bits (n := 7) (q := 1) rfl rfl (by decide)]
  simp [List.range', Nat.testBit, and_comm, and_left_comm]

theorem claims_ioreg : claims ⟨.ioreg, 0x0280, 0x0020, 0x0D00⟩ a =
    (!a.getLsbD 12 && a.getLsbD 7 && a.getLsbD 9 && !a.getLsbD 6 && !a.getLsbD 5) := by
  rw [Bool.eq_iff_iff, claims_iff_bits (n := 5) (q := 20) rfl rfl (by decide)]
  simp [List.range', Nat.testBit, and_comm, and_left_comm]

theorem claims_cart : claims ⟨.cart, 0x1000, 0x1000, 0x0000⟩ a = a.getLsbD 12 := by
  rw [Bool.eq_iff_iff, claims_iff_bits (n := 12) (q := 1) rfl rfl (by decide)]
  simp [Nat.testBit]

/-- Where an aligned region claims the address, the lookup gives the place in the block. -/
theorem matchRegion_cons_aligned (hsize : r.size = 2 ^ n) (hbase : r.base = 2 ^ n * q)
    (hmask : r.mirrorMask % 2 ^ n = 0) (rs : List Region) : matchRegion (r :: rs) a =
      if claims r a then some (r.owner, a.toNat % 2 ^ n) else matchRegion rs a := by
  rw [matchRegion]
  split
  · next hclaims => rw [regionOffset_eq_mod hsize hbase hmask hclaims]
  · rfl

/-- Settles O10. The four claims in table order; bit 12 excludes the first three, and then bit 7, 9 and
6 and 5 decide in that order. -/
theorem referenceMapByAddressBits : Obligations.ReferenceMapByAddressBits := by
  unfold Obligations.ReferenceMapByAddressBits
  intro a
  rw [referenceRegions, matchRegion_cons_aligned (n := 7) (q := 0) a rfl rfl rfl,
    matchRegion_cons_aligned (n := 7) (q := 1) a rfl rfl rfl,
    matchRegion_cons_aligned (n := 5) (q := 20) a rfl rfl rfl,
    matchRegion_cons_aligned (n := 12) (q := 1) a rfl rfl rfl, claims_video, claims_ioram, claims_ioreg, claims_cart]
  cases a.getLsbD 12 with
  | true => rfl
  | false =>
    cases a.getLsbD 7 with
    | false => rfl
    | true =>
      cases a.getLsbD 9 with
      | false => rfl
      | true => rfl

end Sys2Proof.Machine
end

section
/-! Reset, START and the scheme-identifier rows (70_reset_and_hazards.md R170, R171; 60_exceptions.md R150 to
R158; 30_encoding.md R66). -/

namespace Sys2Proof.Machine

variable {s t : State} {rec : StartRecord} {k : Kind} {r : RefuseReason}

/-! ### What START answers, by its record -/

/-- A legal record opens a session of its kind. -/
theorem startSession_legal (s : State) (hid : kindOfId rec.schemeId = some k) (hlegal : LegalStart rec k) :
    startSession rec s = (openSession k rec s).tick := by
  simp only [startSession, hid, startChecks_iff.mpr hlegal]

/-- A record with a known id and a failing check is refused with the first such check. -/
theorem startSession_failing (s : State) (hid : kindOfId rec.schemeId = some k) {c : CheckName}
    (hfails : firstFailing (startChecks rec k) = some c) :
    startSession rec s = (refuseSession (.invalidConfiguration c) rec s).tick := by
  simp only [startSession, hid, hfails]

theorem startSession_illegal (s : State) (hid : kindOfId rec.schemeId = some k) (hillegal : ¬LegalStart rec k) :
    ∃ c, startSession rec s = (refuseSession (.invalidConfiguration c) rec s).tick := by
  obtain ⟨c, hfails⟩ := Option.ne_none_iff_exists'.mp (mt startChecks_iff.mp hillegal)
  exact ⟨c, startSession_failing s hid hfails⟩

/-- A session that runs after START was opened with a known id and a legal record. -/
theorem startSession_running (hrun : (startSession rec s).status = .running) :
    ∃ k, kindOfId rec.schemeId = some k ∧ LegalStart rec k := by
  rcases startSession_cases rec s with ⟨-, hunknown⟩ | ⟨k, c, -, -, hrefused⟩ | ⟨k, hid, hchecks, -⟩
  · rw [hunknown] at hrun
    cases hrun
  · rw [hrefused] at hrun
    cases hrun
  · exact ⟨k, hid, startChecks_iff.mp hchecks⟩

theorem startSession_refused (hrefused : (startSession rec s).status = .refused r) :
    startSession rec s = (refuseSession r rec s).tick := by
  rcases startSession_cases rec s with ⟨-, heq⟩ | ⟨k, c, -, -, heq⟩ | ⟨k, -, -, heq⟩
  · rw [heq] at hrefused ⊢
    cases hrefused
    rfl
  · rw [heq] at hrefused ⊢
    cases hrefused
    rfl
  · rw [heq] at hrefused
    cases hrefused

/-- Settles O16. START's checks hold exactly of a legal record, and one that fails refuses the session. -/
theorem startRunsExactlyTheLegalRecords : Obligations.StartRunsExactlyTheLegalRecords := by
  unfold Obligations.StartRunsExactlyTheLegalRecords
  intro s rec k hrun hid
  refine ⟨startSession rec s, exec_start_running rec hrun, fun hstarted => ?_, fun hlegal => ?_⟩
  · obtain ⟨k', hid', hlegal⟩ := startSession_running hstarted
    cases hid.symm.trans hid'
    exact hlegal
  · rw [startSession_legal s hid hlegal]
    rfl

/-! ### The values a successful START sets -/

/-- An image in canonical form and of its size is taken as it is (notes/assumptions/11.md). -/
theorem sessionConfiguration_canonical {cfg : Configuration} (hwf : Memory.wf cfg.rom = true)
    (hwithin : Memory.within (cfg.bankCount * cfg.bankSize) cfg.rom = true) : sessionConfiguration cfg = cfg := by
  rw [sessionConfiguration, Memory.load_canonical hwf hwithin]

/-- INIT_BANK is reduced, under every kind with a bank. -/
theorem initialController_curBank (hkind : k ≠ .fixed) :
    (initialController rec k).curBank = rec.initBank % rec.cfg.bankCount := by
  cases k with
  | fixed => exact absurd rfl hkind
  | wselAddr | wselData | hotspot | snoop | pagedRam => rfl

/-- Settles O17. The session is the one `openSession` makes, read off element by element. -/
theorem successfulStartSetsEveryElement : Obligations.SuccessfulStartSetsEveryElement := by
  unfold Obligations.SuccessfulStartSetsEveryElement
  intro s rec k hrun hid hlegal
  refine ⟨(openSession k rec s).tick, ?starts, rfl, rfl, rfl, initialController_kind rec k,
    initialController_curBank, ?paged, Memory.load_canonical, rfl, rfl, rfl, sessionConfiguration_canonical, rfl, rfl,
    rfl⟩
  case starts => rw [exec_start_running rec hrun, startSession_legal s hid hlegal]
  case paged =>
    rintro rfl
    exact ⟨_, rfl, Memory.load_canonical⟩

/-- Settles O19: the checks stand in the order of R158, and the first that fails names the reason. -/
theorem firstFailingCheckGivesTheReason : Obligations.FirstFailingCheckGivesTheReason := by
  unfold Obligations.FirstFailingCheckGivesTheReason
  intro s rec k pre post c hrun hid hsplit hpre
  have hfails : firstFailing (startChecks rec k) = some c := by
    rw [startChecks, hsplit]
    exact firstFailing_split hpre
  refine ⟨startSession rec s, exec_start_running rec hrun, ?_, rfl⟩
  rw [startSession_failing s hid hfails]
  rfl

/-- Settles O20: both refusals of START are `refuseSession`. -/
theorem refusedStartWritesTheStatusOnly : Obligations.RefusedStartWritesTheStatusOnly := by
  unfold Obligations.RefusedStartWritesTheStatusOnly
  intro s t rec r hexec hrefused
  rw [exec_start_next hexec] at hrefused ⊢
  exact startSession_refused hrefused

/-- Settles O21. Whether START succeeds is a matter of the record, and `openSession` keeps only the inputs
and the turn of the session before. -/
theorem startForgetsTheSessionBefore : Obligations.StartForgetsTheSessionBefore := by
  unfold Obligations.StartForgetsTheSessionBefore
  intro s u t t' rec hexec hexec' hrun
  cases exec_start_next hexec
  cases exec_start_next hexec'
  obtain ⟨k, hid, hlegal⟩ := startSession_running hrun
  rw [startSession_legal s hid hlegal, startSession_legal u hid hlegal]
  rfl

/-! ### The scheme-identifier rows -/

/-- START with a legal record runs, with the controller of its kind. -/
theorem exec_start_legal (hrun : s.status = .running) (hid : kindOfId rec.schemeId = some k)
    (hlegal : LegalStart rec k) :
    ∃ t, exec (.start rec) s = .next t ∧ t.status = .running ∧ t.controller = initialController rec k :=
  ⟨(openSession k rec s).tick, by rw [exec_start_running rec hrun, startSession_legal s hid hlegal], rfl, rfl⟩

/-- Settles O22: each row is the START of the supplied record with the row's id. -/
theorem schemeRowsStartTheirKind : Obligations.SchemeRowsStartTheirKind := by
  unfold Obligations.SchemeRowsStartTheirKind
  intro s hrun
  exact ⟨exec_start_legal hrun rfl, exec_start_legal hrun rfl, exec_start_legal hrun rfl, exec_start_legal hrun rfl,
    exec_start_legal hrun rfl, exec_start_legal hrun rfl⟩

/-- A row of the scheme table is the START of its id, which declares the row's kind (30_encoding.md R66). -/
theorem exec_schemeRow {i : Instr} {id : SchemeId}
    (hrow : (i, id, k) ∈ [(Instr.schemeFixed, 0#8, Kind.fixed), (.schemeWselAddr, 1#8, .wselAddr),
      (.schemeWselData, 2#8, .wselData), (.schemeHotspot, 3#8, .hotspot), (.schemeSnoop, 4#8, .snoop),
      (.schemePagedRam, 5#8, .pagedRam)]) (s : State) :
    exec i s = exec (.start (declareScheme s.record id)) s ∧ kindOfId id = some k := by
  simp only [List.mem_cons, Prod.mk.injEq, List.not_mem_nil, or_false] at hrow
  rcases hrow with ⟨rfl, rfl, rfl⟩ | ⟨rfl, rfl, rfl⟩ | ⟨rfl, rfl, rfl⟩ | ⟨rfl, rfl, rfl⟩ | ⟨rfl, rfl, rfl⟩ |
    ⟨rfl, rfl, rfl⟩ <;> exact ⟨rfl, rfl⟩

/-- Settles O23. A row answers what START answers: the refusal of a failing check, or the session that
`openSession` makes, read off element by element. -/
theorem schemeRowsSetTheOtherElements : Obligations.SchemeRowsSetTheOtherElements := by
  unfold Obligations.SchemeRowsSetTheOtherElements
  refine ⟨fun s i id k hrow => ?_, fun s id => rfl⟩
  obtain ⟨hstart, hid⟩ := exec_schemeRow hrow s
  rw [hstart]
  refine ⟨rfl, fun hrun hillegal => ?refused, fun t hexec hrun => ?opened⟩
  case refused =>
    obtain ⟨c, hrefused⟩ := startSession_illegal s hid hillegal
    exact ⟨_, c, (exec_start_running _ hrun).trans (congrArg _ hrefused), rfl, rfl⟩
  case opened =>
    cases exec_start_next hexec
    obtain ⟨k', hid', hlegal⟩ := startSession_running hrun
    cases hid.symm.trans hid'
    rw [startSession_legal s hid hlegal]
    exact ⟨rfl, rfl, rfl, rfl, rfl, rfl, rfl, rfl, rfl⟩

/-- Settles O24: the row is a START whose id is no scheme's. -/
theorem unknownSchemeRowRefusesTheSession : Obligations.UnknownSchemeRowRefusesTheSession := by
  unfold Obligations.UnknownSchemeRowRefusesTheSession
  intro s id hrun hid
  have hrefused := startSession_unknown (rec := declareScheme s.record id) s hid
  exact ⟨_, (exec_start_running _ hrun).trans (congrArg _ hrefused), rfl, rfl, rfl, rfl, rfl, rfl, rfl, rfl, rfl⟩

/-! ### Reset (R171) -/

/-- The reference record meets every check START makes of it. -/
theorem startChecks_referenceRecord : firstFailing (startChecks referenceRecord .hotspot) = none := by
  decide +kernel

theorem startSession_reset : startSession referenceRecord State.reset = State.reset.tick :=
  startSession_legal State.reset (k := .hotspot) rfl (startChecks_iff.mp startChecks_referenceRecord)

/-- Settles O11: the reference record is legal for its kind, and opens the session reset is in. -/
theorem resetIsASuccessfulStart : Obligations.ResetIsASuccessfulStart := by
  unfold Obligations.ResetIsASuccessfulStart
  exact ⟨rfl, rfl, (exec_start_running referenceRecord rfl).trans (congrArg _ startSession_reset)⟩

/-- Settles O12: reset is, but for the turn, a session START has opened. -/
theorem resetIsConsistent : Obligations.ResetIsConsistent := by
  unfold Obligations.ResetIsConsistent
  exact (openSession_consistent (s := State.reset) startChecks_referenceRecord).of_eq rfl rfl rfl

/-! ### The status gate (10_state.md R32) -/

/-- Settles O14: every input stands behind the gate. -/
theorem refusedSessionHasNoStep : Obligations.RefusedSessionHasNoStep := by
  unfold Obligations.RefusedSessionHasNoStep
  exact fun s r i hrefused => exec_refused i hrefused

/-- Settles O15: the gate is all that can stop an input. -/
theorem runningSessionAlwaysSteps : Obligations.RunningSessionAlwaysSteps := by
  unfold Obligations.RunningSessionAlwaysSteps
  intro s i hrun
  obtain ⟨t, hgate⟩ := exec_eq_whenRunning i s
  exact ⟨t, hgate.trans (whenRunning_running t hrun)⟩

end Sys2Proof.Machine
end

section
/-! The bus cycles: what each answers and what it leaves unchanged (40_bus_decoder.md R80 to R86,
30_encoding.md R63, 60_exceptions.md R155). -/

namespace Sys2Proof.Machine

variable {s t u : State} {a : Addr} {d : Byte} {o : Nat} {i : Instr}

/-! ### Reserved kinds -/

/-- Settles O25: each row of a reserved kind refuses the descriptor of that kind. -/
theorem reservedKindsOnlyLeaveTheMark : Obligations.ReservedKindsOnlyLeaveTheMark := by
  unfold Obligations.ReservedKindsOnlyLeaveTheMark
  intro s a d i k hrow hrun
  have hrefuses : exec i s = whenRunning s (refuseCycle (descriptorOf k a d) s) := by
    simp only [List.mem_cons, Prod.mk.injEq, List.not_mem_nil, or_false] at hrow
    rcases hrow with ⟨rfl, rfl⟩ | ⟨rfl, rfl⟩ | ⟨rfl, rfl⟩ | ⟨rfl, rfl⟩ <;> rfl
  exact hrefuses.trans (whenRunning_running _ hrun)

/-- Settles O26. A cycle and a VSYNC event keep the status and the mark, and a refusal adds to the mark. -/
theorem onlyReservedKindsLeaveTheHardware : Obligations.OnlyReservedKindsLeaveTheHardware := by
  unfold Obligations.OnlyReservedKindsLeaveTheHardware
  intro s t i hclean hi hexec
  obtain ⟨hrun, hmark⟩ := hclean
  rcases exec_inSession_cases hi hexec with ⟨k, a, d, rfl, rfl⟩ | ⟨hreserved, c, rfl⟩ | ⟨n, rfl, rfl⟩
  · obtain ⟨hstatus, -, hmark', -⟩ := access_sameSession (s := s) a d k
    have hstill : (access k a d s).Clean := ⟨hstatus.trans hrun, hmark'.trans hmark⟩
    exact iff_of_true hstill (isReserved_cycleInstr k a d)
  · have hmarked : ¬(refuseCycle c s).Clean := fun ⟨_, hempty⟩ => List.cons_ne_nil _ _ hempty
    rw [hreserved]
    exact iff_of_false hmarked nofun
  · exact iff_of_true ⟨hrun, hmark⟩ rfl

/-! ### READ, FETCH and PEEK -/

/-- Settles O27: the answer is made in phase 2, from the state phase 1 leaves. -/
theorem readTriggersThenAnswers : Obligations.ReadTriggersThenAnswers := by
  unfold Obligations.ReadTriggersThenAnswers
  intro s a hrun
  exact ⟨access .read a 0 s, exec_read_running a hrun, readData_answer (triggered s a false 0) a false, rfl, rfl, rfl,
    rfl, access_sameSession a 0 .read⟩

/-- Settles O28: the answer is made from the trace before phase 3 shifts it. -/
theorem fetchAnswersThenShiftsTheTrace : Obligations.FetchAnswersThenShiftsTheTrace := by
  unfold Obligations.FetchAnswersThenShiftsTheTrace
  intro s a hrun
  exact ⟨access .fetch a 0 s, _, _, exec_fetch_running a hrun, readData_answer (triggered s a false 0) a false, rfl, rfl,
    rfl, rfl, rfl, access_sameSession a 0 .fetch⟩

/-- Settles O29: a PEEK is phase 2 alone, with `sed = 1`. -/
theorem peekAnswersAndChangesNothing : Obligations.PeekAnswersAndChangesNothing := by
  unfold Obligations.PeekAnswersAndChangesNothing
  intro s a hrun
  exact ⟨access .peek a 0 s, exec_peek_running a hrun, readData_answer s a true, rfl⟩

/-- A step that goes on is the first of a run. -/
theorem core_run_succ (hstep : step s = .next t) (n : Nat) : core.run (n + 1) s = core.run n t := by
  have hcore : core.step s = .next t := hstep
  simp only [Host.Core.run, hcore]

theorem step_peek (hrun : s.status = .running) (b : Addr) (rest : List Input) :
    step (s.setInputs (encode (.peek b) :: rest)) = .next ((access .peek b 0 s).setInputs rest) := by
  rw [step_of_takeInput (takeInput_cons rfl), decode_encode _ rfl]
  exact exec_peek_running b hrun

/-- PEEKs of any addresses before a PEEK leave no trace in its answer or its state: each changes the
output alone, which no answer reads. -/
theorem run_peeks (as : List Addr) (hrun : s.status = .running) :
    core.run (as.length + 1) (s.setInputs (as.map (fun b => encode (.peek b)) ++ [encode (.peek a)])) =
      .next ((access .peek a 0 s).setInputs []) := by
  induction as generalizing s with
  | nil => exact core_run_succ (step_peek hrun a []) 0
  | cons b as ih =>
    have hfirst := step_peek hrun b (as.map (fun b => encode (.peek b)) ++ [encode (.peek a)])
    have hsame : access .peek a 0 (access .peek b 0 s) = access .peek a 0 s := rfl
    rw [List.map_cons, List.cons_append, List.length_cons, core_run_succ hfirst]
    exact (ih (s := access .peek b 0 s) hrun).trans (by rw [hsame])

/-- Settles O30: a run of PEEKs ends in the state of its last PEEK. -/
theorem peeksAreRepeatable : Obligations.PeeksAreRepeatable := by
  unfold Obligations.PeeksAreRepeatable
  intro s t a as hrun hexec
  cases (exec_peek_running a hrun).symm.trans hexec
  exact run_peeks as hrun

/-- SharedIoRam answers with the byte at the offset, with no call. -/
theorem ReadAnswer.ioram {sed : Bool} {out : Output} (hanswer : ReadAnswer s a sed out)
    (hm : matchRegion s.cfg.regions a = some (.ioram, o)) : out = .read (Memory.read s.ioRam o) [] := by
  simpa only [ReadAnswer, hm] using hanswer

/-- Settles O31. With no trigger fired both answer against one state, and neither SharedIoRam nor the
cartridge looks at `sed`. -/
theorem peekReturnsWhatAReadWould : Obligations.PeekReturnsWhatAReadWould := by
  unfold Obligations.PeekReturnsWhatAReadWould
  intro s t u a w o hm howner htrigger hread hpeek
  have hrun := exec_next_running hread
  obtain ⟨t', hread', -, hanswer⟩ := exec_readOrFetch_untriggered hrun htrigger (.inl rfl)
  obtain ⟨u', hpeek', -, hanswer'⟩ := exec_peek_answer (a := a) hrun
  cases hread.symm.trans hread'
  cases hpeek.symm.trans hpeek'
  rcases howner with rfl | rfl
  · rw [hanswer.ioram hm, hanswer'.ioram hm]
  · rw [hanswer.cart hm, hanswer'.cart hm]

/-! ### WRITE -/

/-- Only a FETCH changes the trace (10_state.md R29). -/
theorem access_trace {k : CycleKind} (hk : k ≠ .fetch) : (access k a d s).trace = s.trace := by
  cases k with
  | read | peek => rfl
  | fetch => exact absurd rfl hk
  | write =>
    rw [access_write]
    rcases writeData_cases (triggered s a true d) a d with ⟨-, -, heq⟩ | ⟨o, -, heq⟩ | ⟨o, -, heq⟩ <;> simp [heq]

/-- Settles O32. What phase 2 stores after the triggers, owner by owner; no phase of a WRITE reaches the
trace or the geometry. -/
theorem writeTriggersThenStores : Obligations.WriteTriggersThenStores := by
  unfold Obligations.WriteTriggersThenStores
  intro s a d hconsistent hrun
  obtain ⟨-, -, -, hgeometry, -⟩ := access_frame s a d .write
  refine ⟨access .write a d s, exec_write_running a d hrun, access_trace nofun, hgeometry,
    access_sameSession a d .write, fun hm => ?unclaimed, fun o hm => ?video, fun o hm => ?ioreg, fun o hm => ?ioram,
    fun o hm => ?cart⟩
  case unclaimed =>
    rw [access_write_unclaimed d hm]
    exact ⟨rfl, rfl, rfl⟩
  case video =>
    rw [access_write_video d hm]
    exact ⟨rfl, rfl, rfl⟩
  case ioreg =>
    rw [access_write_ioreg d hm]
    exact ⟨rfl, rfl, rfl⟩
  case ioram =>
    rw [access_write_ioram d hm]
    exact ⟨rfl, rfl, Memory.read_write_same hconsistent.ioRamWf o d, fun j hj => Memory.read_write_other s.ioRam hj d⟩
  case cart =>
    rw [access_write_cart d hm]
    exact ⟨rfl, rfl, rfl⟩

/-- Settles O34. Phase 1 selects from the address alone, and phase 2 is the owner's. -/
theorem snoopedCyclesReachTheirOwner : Obligations.SnoopedCyclesReachTheirOwner := by
  unfold Obligations.SnoopedCyclesReachTheirOwner
  intro s a d b o hrun hsnoop hhit
  have hselects (w : Bool) (e : Byte) : trigger s.cfg a w e s.controller =
      .snoop (((a.toNat >>> s.cfg.snoopShift) &&& s.cfg.snoopSelect) % s.cfg.bankCount) := by
    rw [hsnoop, trigger_snoop, if_pos hhit]
  refine ⟨fun hm => ⟨access .write a d s, exec_write_running a d hrun, ?_⟩, fun hm => ?read⟩
  · rw [access_write_video d hm]
    exact ⟨rfl, hselects true d⟩
  case read =>
    obtain ⟨t, hexec, hcontroller, -, hanswer⟩ := exec_readOrFetch_running (a := a) hrun (.inl rfl)
    exact ⟨t, hexec, hanswer.ioram hm, hcontroller.trans (hselects false 0)⟩

/-! ### Frames inside a session -/

/-- Settles O36: the frame of each of the three things an input inside a session can do. -/
theorem onlySessionStartChangesTheConfiguration : Obligations.OnlySessionStartChangesTheConfiguration := by
  unfold Obligations.OnlySessionStartChangesTheConfiguration
  intro s t i hi hexec
  rcases exec_inSession_cases hi hexec with ⟨k, a, d, -, rfl⟩ | ⟨-, c, rfl⟩ | ⟨n, -, rfl⟩
  · obtain ⟨hstatus, hcfg, hkind, -⟩ := access_frame s a d k
    exact ⟨hcfg, hkind, hstatus⟩
  · exact ⟨rfl, rfl, rfl⟩
  · exact ⟨rfl, rfl, rfl⟩

/-- A cycle that is no WRITE leaves the page and the overlay (41_bank_switch.md R116, R117). -/
theorem access_pagedRam {k : CycleKind} (hk : k ≠ .write) {b p : Nat} {m : Memory}
    (hpaged : s.controller = .pagedRam b p m) : ∃ b', (access k a d s).controller = .pagedRam b' p m := by
  have hread : (triggered s a false d).controller = .pagedRam (hotspotStep s.cfg a false b) p m := by
    rw [triggered_controller, hpaged]
    rfl
  cases k with
  | read | fetch => exact ⟨_, hread⟩
  | peek => exact ⟨b, hpaged⟩
  | write => exact absurd rfl hk

/-- Settles O37. A refusal and a VSYNC event change none of the elements named but the geometry, and a
cycle changes the trace as a FETCH only, and SharedIoRam, the page and the overlay as a WRITE only. -/
theorem whoMayChangeWhat : Obligations.WhoMayChangeWhat := by
  unfold Obligations.WhoMayChangeWhat
  intro s t i hi hexec
  rcases exec_inSession_cases hi hexec with ⟨k, a, d, rfl, rfl⟩ | ⟨-, c, rfl⟩ | ⟨n, rfl, rfl⟩
  · obtain ⟨-, -, -, hgeometry, -⟩ := access_frame s a d k
    refine ⟨fun hfetch => access_trace ?notFetch, fun hwrite => ?notWrite, fun _ => hgeometry⟩
    case notFetch =>
      rintro rfl
      exact hfetch a rfl
    case notWrite =>
      have hk : k ≠ .write := by
        rintro rfl
        exact hwrite a d rfl
      refine ⟨?_, fun b p m hpaged => access_pagedRam hk hpaged⟩
      rcases access_ioRam s a d k with hsame | ⟨o, hkwrite, -⟩
      · exact hsame
      · exact absurd hkwrite hk
  · exact ⟨fun _ => rfl, fun _ => ⟨rfl, fun b p m hpaged => ⟨b, hpaged⟩⟩, fun _ => rfl⟩
  · exact ⟨fun _ => rfl, fun _ => ⟨rfl, fun b p m hpaged => ⟨b, hpaged⟩⟩, fun hvsync => absurd rfl (hvsync n)⟩

/-! ### SharedIoRam between two inputs (10_state.md R28) -/

/-- An input of the session that does not write offset `o` leaves its byte, the configuration and the status. -/
theorem exec_keeps_ioRamByte (hi : startsSession i = false)
    (hnoWrite : ∀ c e, i = .write c e → matchRegion s.cfg.regions c ≠ some (.ioram, o)) (hexec : exec i s = .next t) :
    Memory.read t.ioRam o = Memory.read s.ioRam o ∧ t.cfg = s.cfg ∧ t.status = s.status := by
  obtain ⟨hcfg, -, hstatus⟩ := onlySessionStartChangesTheConfiguration s t i hi hexec
  refine ⟨?_, hcfg, hstatus⟩
  rcases exec_inSession_cases hi hexec with ⟨k, a, d, rfl, rfl⟩ | ⟨-, c, rfl⟩ | ⟨n, -, rfl⟩
  · rcases access_ioRam s a d k with hsame | ⟨o', rfl, hm, hstored⟩
    · rw [hsame]
    · have hother : o ≠ o' := by
        rintro rfl
        exact hnoWrite a d rfl hm
      rw [hstored, Memory.read_write_other s.ioRam hother]
  · rfl
  · rfl

theorem execAll_keeps_ioRamByte {is : List Instr}
    (his : ∀ i ∈ is, startsSession i = false ∧
      ∀ c e, i = .write c e → matchRegion s.cfg.regions c ≠ some (.ioram, o)) (hall : execAll is s = .next u) :
    Memory.read u.ioRam o = Memory.read s.ioRam o ∧ u.cfg = s.cfg ∧ u.status = s.status := by
  induction is generalizing s with
  | nil =>
    cases hall
    exact ⟨rfl, rfl, rfl⟩
  | cons i is ih =>
    obtain ⟨v, hexec, hrest⟩ := execAll_cons hall
    obtain ⟨⟨hi, hnoWrite⟩, his⟩ := List.forall_mem_cons.mp his
    obtain ⟨hbyte, hcfg, hstatus⟩ := exec_keeps_ioRamByte hi hnoWrite hexec
    rw [← hbyte, ← hcfg, ← hstatus]
    exact ih (by rwa [hcfg]) hrest

/-- A read cycle at an IORAM address returns the byte it finds there. -/
theorem exec_readCycle_ioram (hrun : s.status = .running) (hm : matchRegion s.cfg.regions a = some (.ioram, o))
    (hi : i = .read a ∨ i = .fetch a ∨ i = .peek a) :
    ∃ t, exec i s = .next t ∧ t.output = .read (Memory.read s.ioRam o) [] := by
  rcases or_assoc.mpr hi with hread | rfl
  · obtain ⟨t, hexec, -, -, hanswer⟩ := exec_readOrFetch_running hrun hread
    exact ⟨t, hexec, hanswer.ioram hm⟩
  · obtain ⟨t, hexec, -, hanswer⟩ := exec_peek_answer (a := a) hrun
    exact ⟨t, hexec, hanswer.ioram hm⟩

/-- Settles O35. The write leaves its byte at the offset, no input between writes that offset, and a read
through any mirror finds it there. -/
theorem sharedIoRamReturnsTheLastWrite : Obligations.SharedIoRamReturnsTheLastWrite := by
  unfold Obligations.SharedIoRamReturnsTheLastWrite
  intro s t u a b d o is hconsistent hma hmb hwrite hall his i hi
  have hrun := exec_next_running hwrite
  cases (exec_write_running a d hrun).symm.trans hwrite
  obtain ⟨hstatus, hcfg, -⟩ := access_frame s a d .write
  have hwritten : Memory.read (access .write a d s).ioRam o = d := by
    rw [access_write_ioram d hma]
    exact Memory.read_write_same hconsistent.ioRamWf o d
  obtain ⟨hbyte, hcfg', hstatus'⟩ := execAll_keeps_ioRamByte (by rwa [hcfg]) hall
  rw [← hwritten, ← hbyte]
  exact exec_readCycle_ioram (by rw [hstatus', hstatus, hrun]) (by rwa [hcfg', hcfg]) hi

end Sys2Proof.Machine
end

section
/-! The bank-switch statements that speak of two addresses, of two cycles, or of the pseudo-operations
(41_bank_switch.md R113, R118; 30_encoding.md R73). -/

namespace Sys2Proof.Machine

variable {s t u : State} {cfg : Configuration} {a : Addr} {d : Byte} {b o : Nat}

/-! ### SNOOP ignores A12 (41_bank_switch.md R113) -/

/-- A mask without bit 12 does not see A12. -/
theorem xor_bit12_and {m : Nat} (hm : m &&& 0x1000 = 0) (x : Nat) : (x ^^^ 0x1000) &&& m = x &&& m := by
  rw [Nat.and_xor_distrib_right, Nat.and_comm 0x1000, hm, Nat.xor_zero]

/-- A shifted index sees the address through the select mask shifted back. -/
theorem shiftRight_and_eq (x n m : Nat) : (x >>> n) &&& m = (x &&& (m <<< n)) >>> n := by
  rw [Nat.shiftRight_and_distrib, Nat.shiftLeft_shiftRight]

/-- With neither the pattern nor the index reading A12, the trigger does not. -/
theorem trigger_snoop_xor_bit12 (hlegal : LegalKind cfg .snoop) (w : Bool) :
    trigger cfg (a ^^^ 0x1000) w d (.snoop b) = trigger cfg a w d (.snoop b) := by
  obtain ⟨hmask, -, -, hselect⟩ := hlegal
  have haddr : (a ^^^ 0x1000).toNat = a.toNat ^^^ 0x1000 := BitVec.toNat_xor a 0x1000
  rw [trigger_snoop, trigger_snoop, haddr, xor_bit12_and hmask, shiftRight_and_eq, xor_bit12_and hselect,
    ← shiftRight_and_eq]

/-- Settles O43. Each of the three kinds of cycle leaves what the trigger leaves. -/
theorem snoopIgnoresA12 : Obligations.SnoopIgnoresA12 := by
  unfold Obligations.SnoopIgnoresA12
  intro s t u a d b hconsistent hsnoop hcycles
  have hkind : s.controller.kind = .snoop := by rw [hsnoop]; rfl
  obtain ⟨-, hlegal⟩ := hconsistent.legal
  rw [hkind] at hlegal
  have hmirror (w : Bool) (e : Byte) :
      trigger s.cfg a w e s.controller = trigger s.cfg (a ^^^ 0x1000) w e s.controller := by
    rw [hsnoop]
    exact (trigger_snoop_xor_bit12 hlegal w).symm
  have hwritten (c : Addr) : (access .write c d s).controller = trigger s.cfg c true d s.controller :=
    access_write_controller s c d (by rw [hkind]; nofun)
  rcases hcycles with ⟨ht, hu⟩ | ⟨ht, hu⟩ | ⟨ht, hu⟩
  · cases (exec_read_running a (exec_next_running ht)).symm.trans ht
    cases (exec_read_running _ (exec_next_running hu)).symm.trans hu
    exact hmirror false 0
  · cases (exec_fetch_running a (exec_next_running ht)).symm.trans ht
    cases (exec_fetch_running _ (exec_next_running hu)).symm.trans hu
    exact hmirror false 0
  · cases (exec_write_running a d (exec_next_running ht)).symm.trans ht
    cases (exec_write_running _ d (exec_next_running hu)).symm.trans hu
    rw [hwritten, hwritten]
    exact hmirror true d

/-! ### A read after a selecting write (41_bank_switch.md R118) -/

/-- Where reads fire no trigger, a window read shows the bank in place. -/
theorem exec_read_window_untriggered (hrun : s.status = .running) (hkind : s.controller.kind ≠ .pagedRam)
    (htrigger : trigger s.cfg a false 0 s.controller = s.controller)
    (hm : matchRegion s.cfg.regions a = some (.cart, o)) :
    ∃ t, exec (.read a) s = .next t ∧ t.output =
      .read (Memory.read s.cfg.rom (s.controller.curBank * s.cfg.bankSize + o % s.cfg.bankSize)) [] := by
  obtain ⟨t, hexec, -, hanswer⟩ := exec_readOrFetch_untriggered hrun htrigger (.inl rfl)
  exact ⟨t, hexec, hanswer.window hkind hm⟩

/-- Settles O46. The write's trigger selects the bank, and under neither scheme does the read select. -/
theorem readAfterSelectingWriteSeesTheBank : Obligations.ReadAfterSelectingWriteSeesTheBank := by
  unfold Obligations.ReadAfterSelectingWriteSeesTheBank
  intro s t a c d o b hin hscheme hwrite hm
  have hrun := exec_next_running hwrite
  cases (exec_write_running a d hrun).symm.trans hwrite
  obtain ⟨hstatus, hcfg, -⟩ := access_frame s a d .write
  have hselected : (access .write a d s).controller = .wselAddr b ∨ (access .write a d s).controller = .wselData b := by
    rcases hscheme with ⟨x, hwsel, rfl⟩ | ⟨x, hwsel, rfl⟩
    · left
      rw [access_write_controller s a d (by rw [hwsel]; nofun), hwsel, trigger, hin]
      rfl
    · right
      rw [access_write_controller s a d (by rw [hwsel]; nofun), hwsel, trigger, hin]
      rfl
  have hread := exec_read_window_untriggered (s := access .write a d s) (a := c) (o := o) (hstatus.trans hrun)
  rw [hcfg] at hread
  rcases hselected with hwsel | hwsel
  · rw [hwsel] at hread
    exact hread nofun rfl hm
  · rw [hwsel] at hread
    exact hread nofun rfl hm

/-! ### SEL (30_encoding.md R73) -/

/-- `SEL b` reads the address of a pair that selects `b`: the pair found by its bank is the only one with
its address. -/
theorem pseudoSel_index {i : Instr} (hlegal : LegalHotspots cfg.hotspots) (hsel : pseudoSel cfg b = some i) :
    ∃ a, i = .read a ∧ hotspotIndex cfg a = some b := by
  obtain ⟨-, haddr, hdistinct⟩ := hlegal
  unfold pseudoSel at hsel
  split at hsel
  · next h hfind =>
    cases hsel
    obtain ⟨hbank, pre, post, hsplit, -⟩ := List.find?_eq_some_iff_append.mp hfind
    have htoNat : h.addr = (BitVec.ofNat 13 h.addr).toNat := by
      rw [BitVec.toNat_ofNat, Nat.mod_eq_of_lt (haddr h (List.mem_of_find?_eq_some hfind))]
    rw [hsplit, List.pairwise_append] at hdistinct
    obtain ⟨-, -, hpre⟩ := hdistinct
    have hfirst : ∀ g ∈ pre, g.addr ≠ (BitVec.ofNat 13 h.addr).toNat :=
      fun g hg heq => hpre g hg h List.mem_cons_self (htoNat.trans heq.symm)
    exact ⟨_, rfl, (hotspotIndex_of_first hsplit hfirst htoNat).trans (congrArg some (eq_of_beq hbank))⟩
  · cases hsel

/-! ### WSEL (30_encoding.md R73) -/

/-- An address no bit of which is masked is its own effective address. -/
theorem effectiveAddr_of_unmasked {r : Region} {x : Nat} (hx : x < 0x2000) (hmask : x &&& r.mirrorMask = 0) :
    effectiveAddr r (BitVec.ofNat 13 x) = x := by
  apply Nat.eq_of_testBit_eq
  intro k
  have hbit := congrArg (Nat.testBit · k) hmask
  simp only [Nat.testBit_and, Nat.zero_testBit] at hbit
  rw [effectiveAddr_testBit, BitVec.toNat_ofNat, Nat.mod_eq_of_lt hx]
  cases hk : x.testBit k
  · rfl
  · rw [hk, Bool.true_and] at hbit
    rw [hbit]
    rfl

/-- `WSEL b` writes at an address of the window, at offset `b` (20_memory.md R41 W1, W3). -/
theorem pseudoWsel_offset {i : Instr} (hlegal : LegalTable cfg.regions) (hwsel : pseudoWsel cfg b = some i)
    (hb : b < cartSize cfg.regions) :
    ∃ a, i = .write a 0 ∧ inCart cfg a = true ∧ windowOffset cfg a = b := by
  obtain ⟨hsizes, -, hunmasked, -⟩ := hlegal
  unfold pseudoWsel at hwsel
  split at hwsel
  · next r hcart =>
    cases hwsel
    have hr : r ∈ cfg.regions := List.mem_of_find?_eq_some hcart
    simp only [cartSize, hcart] at hb
    obtain ⟨-, hend⟩ := hsizes r hr
    have heffective : effectiveAddr r (BitVec.ofNat 13 (r.base + b)) = r.base + b :=
      effectiveAddr_of_unmasked (by omega) (hunmasked r hr _ (by omega) (by omega))
    refine ⟨_, rfl, ?_, ?_⟩
    · rw [inCart, hcart]
      exact claims_iff.mpr (by rw [heffective]; omega)
    · rw [windowOffset, hcart]
      exact (congrArg (· - r.base) heffective).trans (Nat.add_sub_cancel_left _ _)
  · cases hwsel

/-- Settles O48. `SEL b` reads a control address of bank `b`, `WSEL b` writes at the offset `b`, and the
trigger of that cycle does the rest. -/
theorem pseudoOperationsSelectTheirBank : Obligations.PseudoOperationsSelectTheirBank := by
  unfold Obligations.PseudoOperationsSelectTheirBank
  refine ⟨fun s b x i hconsistent hrun hhotspot hsel => ?hotspot,
    fun s b x p m i hconsistent hrun hpaged hsel => ?paged, fun s b x i hconsistent hrun hwselAddr hwsel hb => ?wsel⟩
  case hotspot =>
    obtain ⟨-, hhotspots⟩ := hconsistent.legal
    rw [hhotspot] at hhotspots
    obtain ⟨a, rfl, hindex⟩ := pseudoSel_index hhotspots hsel
    obtain ⟨t, hexec, hcontroller, -⟩ := exec_readOrFetch_running (a := a) hrun (.inl rfl)
    refine ⟨t, hexec, ?_⟩
    rw [hcontroller, hhotspot, trigger, hotspotStep_of_index hindex]
    rfl
  case paged =>
    obtain ⟨-, hlegal⟩ := hconsistent.legal
    rw [hpaged] at hlegal
    obtain ⟨hhotspots, -⟩ := hlegal
    obtain ⟨a, rfl, hindex⟩ := pseudoSel_index hhotspots hsel
    obtain ⟨t, hexec, hcontroller, -⟩ := exec_readOrFetch_running (a := a) hrun (.inl rfl)
    refine ⟨t, hexec, ?_⟩
    rw [hcontroller, hpaged, trigger, hotspotStep_of_index hindex, pageStep_read]
    rfl
  case wsel =>
    obtain ⟨htable, -⟩ := hconsistent.legal
    obtain ⟨a, rfl, hin, hoffset⟩ := pseudoWsel_offset htable hwsel hb
    refine ⟨_, exec_write_running a 0 hrun, ?_⟩
    rw [access_write_controller s a 0 (by rw [hwselAddr]; nofun), hwselAddr, trigger, hin, wselAddrIndex, hoffset]
    rfl

end Sys2Proof.Machine
end

section
/-! The open-bus value under the reference map and parameters (42_open_bus.md R131, R134, R136). -/

namespace Sys2Proof.Machine

variable {s t : State} {a : Addr} {i : Instr}

/-! ### OB_UNDRIVEN (R131) -/

/-- The reference patterns test bit 12 and bit 7. -/
theorem undriven_reference (a : Addr) : undriven referenceConfiguration a = (a.getLsbD 12 || a.getLsbD 7) := by
  have h12 : a &&& 0x1000 = if a.getLsbD 12 then 0x1000 else 0 := BitVec.and_twoPow a 12
  have h7 : a &&& 0x0080 = if a.getLsbD 7 then 0x0080 else 0 := BitVec.and_twoPow a 7
  simp only [undriven, referenceConfiguration, referenceUndriven, List.any_cons, List.any_nil, h12, h7]
  cases a.getLsbD 12 <;> cases a.getLsbD 7 <;> rfl

/-- Settles O50: the mask has the two bits the patterns test. -/
theorem referenceUndrivenIsBits12And7 : Obligations.ReferenceUndrivenIsBits12And7 := by
  unfold Obligations.ReferenceUndrivenIsBits12And7
  intro a
  have hmask : a &&& 0x1080 = (if a.getLsbD 12 then 0x1000 else 0) ||| if a.getLsbD 7 then 0x0080 else 0 := by
    rw [show (0x1080 : Addr) = BitVec.twoPow 13 12 ||| BitVec.twoPow 13 7 from rfl, BitVec.and_or_distrib_left,
      BitVec.and_twoPow, BitVec.and_twoPow]
    rfl
  rw [undriven_reference, hmask]
  cases a.getLsbD 12 <;> cases a.getLsbD 7 <;> decide

/-! ### The value as a function of the trace and SharedIoRam -/

/-- The open-bus value under the reference map and parameters, written with the trace and SharedIoRam
alone (R136). `openBus_reference` ties it to the resolver. -/
def referenceOpenBus (trace : Trace) (ioRam : Memory) (a : Addr) : Byte × List Call :=
  if undriven referenceConfiguration trace.lastAddr = false then (lowByte a, [])
  else if trace.lastByte.toNat < 0x80 ∨ trace.lastByte = 0xFF then (trace.lastByte, [])
  else if trace.prevByte = 0xB1 then (Memory.read ioRam (trace.lastByte.toNat + 1 - 0x80), [])
  else (trace.lastByte, [])

/-- The step-3 address of a byte from 0x80 to 0xFE lies in IORAM (R134): it has bit 7, and not bit 12 or
bit 9. -/
theorem matchRegion_reference_peekAddr {x : Byte} (hlow : ¬x.toNat < 0x80) (hhigh : x ≠ 0xFF) :
    matchRegion referenceRegions (peekAddr x) = some (.ioram, x.toNat + 1 - 0x80) := by
  have hx : x.toNat < 0xFF := by
    have hne : x.toNat ≠ 0xFF := fun heq => hhigh (BitVec.eq_of_toNat_eq heq)
    omega
  have haddr : (peekAddr x).toNat = x.toNat + 1 := by
    rw [peekAddr]
    bv_omega
  have hbit (k : Nat) : (peekAddr x).getLsbD k = decide ((x.toNat + 1) / 2 ^ k % 2 = 1) := by
    rw [← BitVec.testBit_toNat, haddr, Nat.testBit_eq_decide_div_mod_eq]
  have h12 : (peekAddr x).getLsbD 12 = false := by rw [hbit, decide_eq_false_iff_not]; omega
  have h9 : (peekAddr x).getLsbD 9 = false := by rw [hbit, decide_eq_false_iff_not]; omega
  have h7 : (peekAddr x).getLsbD 7 = true := by rw [hbit, decide_eq_true_iff]; omega
  have hplace : (x.toNat + 1) % 0x80 = x.toNat + 1 - 0x80 := by omega
  rw [referenceMapByAddressBits, h12, h7, h9, haddr, hplace]
  rfl

theorem peekOne_reference {x : Byte} (hregions : s.cfg.regions = referenceRegions) (hlow : ¬x.toNat < 0x80)
    (hhigh : x ≠ 0xFF) : peekOne s (peekAddr x) = (Memory.read s.ioRam (x.toNat + 1 - 0x80), []) := by
  simp only [peekOne, hregions, matchRegion_reference_peekAddr hlow hhigh]

/-- The resolver's four steps under the reference map and parameters. -/
theorem openBus_reference (href : HasReferenceOpenBus s.cfg) (a : Addr) :
    openBus s a = referenceOpenBus s.trace s.ioRam a := by
  obtain ⟨hregions, hpatterns, hthreshold, hopcode, hcheck⟩ := href
  have hundriven (x : Addr) : undriven s.cfg x = undriven referenceConfiguration x := by
    rw [undriven, hpatterns]
    rfl
  have hnoVariant : ¬(s.cfg.obCheckPrevAddr = true ∧ undriven s.cfg s.trace.prevAddr = false) := by
    rw [hcheck]
    nofun
  rw [referenceOpenBus, ← hundriven, ← hopcode]
  split
  · next h1 => exact openBus_step1 a h1
  · next h1 =>
    have h1 := eq_true_of_ne_false h1
    split
    · next h2 => exact openBus_step2 a h1 (by rwa [hthreshold])
    · next h2 =>
      obtain ⟨hlow, hhigh⟩ := not_or.mp h2
      rw [openBus_step34 a h1 (by rwa [hthreshold]) hnoVariant, peekOne_reference hregions hlow hhigh]

/-- An unclaimed read cycle shows it: no trigger changes the configuration, the trace or SharedIoRam. -/
theorem exec_readCycle_reference (href : HasReferenceOpenBus s.cfg) (hi : i = .read a ∨ i = .fetch a ∨ i = .peek a)
    (hm : matchRegion referenceRegions a = none) (hexec : exec i s = .next t) :
    t.output = .read (referenceOpenBus s.trace s.ioRam a).1 (referenceOpenBus s.trace s.ioRam a).2 := by
  have hrun := exec_next_running hexec
  have hm' : matchRegion s.cfg.regions a = none := by rw [href.1, hm]
  have htriggered : openBus (triggered s a false 0) a = referenceOpenBus s.trace s.ioRam a :=
    openBus_reference (s := triggered s a false 0) href a
  rcases hi with rfl | rfl | rfl
  · cases (exec_read_running a hrun).symm.trans hexec
    rw [access_read_fetch_output_unclaimed 0 (.inl rfl) hm', htriggered]
  · cases (exec_fetch_running a hrun).symm.trans hexec
    rw [access_read_fetch_output_unclaimed 0 (.inr rfl) hm', htriggered]
  · cases (exec_peek_running a hrun).symm.trans hexec
    rw [access_peek_output_unclaimed 0 hm', openBus_reference href]

/-- Settles O51. The value is `referenceOpenBus`, which takes nothing but the trace and SharedIoRam. -/
theorem referenceOpenBusIsPureInTraceAndIoRam : Obligations.ReferenceOpenBusIsPureInTraceAndIoRam := by
  unfold Obligations.ReferenceOpenBusIsPureInTraceAndIoRam
  refine ⟨fun s a href hundriven hlow hhigh hopcode => ?step3, fun s u a href href' htrace hioRam => ⟨?value, ?reads⟩⟩
  case step3 =>
    have hpatterns : undriven s.cfg s.trace.lastAddr = undriven referenceConfiguration s.trace.lastAddr := by
      rw [undriven, href.2.1]
      rfl
    rw [openBus_reference href, referenceOpenBus, ← hpatterns, if_neg (by rw [hundriven]; nofun),
      if_neg (not_or.mpr ⟨Nat.not_lt.mpr hlow, hhigh⟩), if_pos hopcode]
  case value => rw [openBus_reference href, openBus_reference href', htrace, hioRam]
  case reads =>
    intro i t t' hi hm hexec hexec'
    rw [exec_readCycle_reference href hi hm hexec, exec_readCycle_reference href' hi hm hexec', htrace, hioRam]

end Sys2Proof.Machine
end
